-- ==== Sys2Proof/Word.lean ====
section
/-! DEFINITION. The words, the three-fold index and the line levels of the block: `00_scope.md` R7, R10 and
`10_state.md` R26, R27. -/

namespace Sys2Proof

/-- A command word, bit 0 least significant (R7, R10). -/
abbrev Word := BitVec 16

/-- A byte of the NV record, and the form in which a working setting is held (R23, R25). -/
abbrev Byte := BitVec 8

/-- A 7-bit device address: bit 6 the board group, bits 5:0 the controller bit (R8). -/
abbrev DevAddr := BitVec 7

/-- The index 0, 1 or 2 of an attenuator channel, of its byte in the NV record, or of a notch (R7, R12, R51). -/
inductive Lane where
  | l0
  | l1
  | l2
  deriving DecidableEq, Repr, Inhabited

/-- The index as a number. -/
def Lane.idx : Lane → Nat
  | .l0 => 0
  | .l1 => 1
  | .l2 => 2

/-- The three indices in the order in which every loop of the spec runs through them. -/
def Lane.all : List Lane := [.l0, .l1, .l2]

/-- Three like things, one for each index. -/
structure Triple (α : Type) where
  l0 : α
  l1 : α
  l2 : α
  deriving DecidableEq, Repr, Inhabited

/-- Element `i`. -/
def Triple.get {α : Type} (t : Triple α) : Lane → α
  | .l0 => t.l0
  | .l1 => t.l1
  | .l2 => t.l2

/-- The triple with element `i` replaced. -/
def Triple.set {α : Type} (t : Triple α) (i : Lane) (x : α) : Triple α :=
  match i with
  | .l0 => { t with l0 := x }
  | .l1 => { t with l1 := x }
  | .l2 => { t with l2 := x }

/-- The same thing three times. -/
def Triple.const {α : Type} (x : α) : Triple α := ⟨x, x, x⟩

/-- The value of a notch or enable line (R26, R27). A notch line ASSERTED is a closed relay, DEASSERTED an open one. -/
inductive Switch where
  | asserted
  | deasserted
  | undriven
  deriving DecidableEq, Repr, Inhabited

/-- The value of the data or the clock line (R27). -/
inductive Wire where
  | low
  | high
  | undriven
  deriving DecidableEq, Repr, Inhabited

end Sys2Proof
end

