-- ==== Sys2Proof/Syntax.lean ====
section
/-! DEFINITION. The commands: one constructor for each row of `spec/opcode_table.json` (`30_encoding.md` R76), and the mode
they are decoded in. -/

namespace Sys2Proof

/-- The synchronization state, the block's only mode (R22, R212). -/
inductive Sync where
  | locked
  | unlocked
  deriving DecidableEq, Repr, Inhabited

/-- A command, with every bit of its word that its row leaves free, don't-care bits among them (R72, R80). -/
inductive Instr where
  /-- UNLOCK, `0xD00D` while LOCKED (R101). -/
  | unlock
  /-- LOCKED_DROP, any other word while LOCKED (R102). -/
  | lockedDrop (w : Word)
  /-- RESET, `0xFFFF` while UNLOCKED (R103). -/
  | reset
  /-- RSVD, a reserved special word, its bits 14:0 (R122). -/
  | rsvd (x : BitVec 15)
  /-- FOREIGN, a word for another device: address field and payload (R123). -/
  | foreign (a : BitVec 7) (p : BitVec 8)
  /-- NOTCH: address field, don't-care bit 6, select bits, value bits (R124). -/
  | notch (a : BitVec 7) (x : BitVec 1) (sel : BitVec 3) (val : BitVec 3)
  /-- COMMIT: address field, don't-care bits 4:0 (R126). -/
  | commit (a : BitVec 7) (x : BitVec 5)
  /-- SET of channel 0: address field and setting (R125). -/
  | setCh0 (a : BitVec 7) (v : BitVec 5)
  /-- SET of channel 1 (R125). -/
  | setCh1 (a : BitVec 7) (v : BitVec 5)
  /-- SET of channel 2 (R125). -/
  | setCh2 (a : BitVec 7) (v : BitVec 5)
  deriving DecidableEq, Repr, Inhabited

/-- The row's name in the opcode table, letter for letter. -/
def Instr.mnemonic : Instr → String
  | .unlock => "UNLOCK"
  | .lockedDrop _ => "LOCKED_DROP"
  | .reset => "RESET"
  | .rsvd _ => "RSVD"
  | .foreign _ _ => "FOREIGN"
  | .notch _ _ _ _ => "NOTCH"
  | .commit _ _ => "COMMIT"
  | .setCh0 _ _ => "SET_CH0"
  | .setCh1 _ _ => "SET_CH1"
  | .setCh2 _ _ => "SET_CH2"

/-- The `state` column of the row: the mode in which the row can be decoded (R76). -/
def Instr.rowSync : Instr → Sync
  | .unlock => .locked
  | .lockedDrop _ => .locked
  | .reset => .unlocked
  | .rsvd _ => .unlocked
  | .foreign _ _ => .unlocked
  | .notch _ _ _ _ => .unlocked
  | .commit _ _ => .unlocked
  | .setCh0 _ _ => .unlocked
  | .setCh1 _ _ => .unlocked
  | .setCh2 _ _ => .unlocked

end Sys2Proof
end

