-- ==== Sys2Proof/WellFormed.lean ====
section
/-! DEFINITION. Which commands are words of the block: the `cond` column of the opcode table (`30_encoding.md` R76), and the
well-formedness of a device address (`00_scope.md` R8). -/

namespace Sys2Proof

/-- `popcount` of the controller bits 5:0 of a device address (R10). -/
def DevAddr.controllerBits (d : DevAddr) : Nat :=
  (d.getLsbD 0).toNat + (d.getLsbD 1).toNat + (d.getLsbD 2).toNat +
    (d.getLsbD 3).toNat + (d.getLsbD 4).toNat + (d.getLsbD 5).toNat

/-- `DEV_WF` (R8): bits 5:0 are one-hot. A premise of claims, not a rule of the machine (D21). -/
def DevAddr.wellFormed (d : DevAddr) : Bool := d.controllerBits == 1

/-- The condition a row puts on the bits its constructor carries, for a device of address `dev` (R76): what the fixed bits of
the row leave to be checked. -/
def Instr.wellFormed (dev : DevAddr) : Instr → Bool
  | .unlock => true
  | .lockedDrop w => w != 0xD00D#16
  | .reset => true
  | .rsvd x => x != 0x7FFF#15
  | .foreign a _ => a &&& dev == 0#7
  | .notch a _ _ _ => a &&& dev != 0#7
  | .commit a _ => a &&& dev != 0#7
  | .setCh0 a _ => a &&& dev != 0#7
  | .setCh1 a _ => a &&& dev != 0#7
  | .setCh2 a _ => a &&& dev != 0#7

end Sys2Proof
end

