-- ==== Sys2Proof/Decode.lean ====
section
/-! DEFINITION. From words to commands and back: the fields (`30_encoding.md` R71 to R73), the decode order (R74), the opcode
map (R76), the byte form of a word on the link (`20_memory.md` R54), the encoder, and the host's `decodeTableWord`. -/

namespace Sys2Proof

/-- `UNLOCK_MAGIC` (R12, R77). -/
def unlockMagic : Word := 0xD00D#16

/-- `RESET_MAGIC` (R12, R77). -/
def resetMagic : Word := 0xFFFF#16

/-- `special = w[15]` (R71). -/
def Word.special (w : Word) : Bool := w.getLsbD 15

/-- `addr = w[14:8]` (R71). -/
def Word.addr (w : Word) : BitVec 7 := w.extractLsb' 8 7

/-- `payload = w[7:0]` (R71). -/
def Word.payload (w : Word) : BitVec 8 := w.extractLsb' 0 8

/-- `notchsel = w[7]` (R71). -/
def Word.notchsel (w : Word) : Bool := w.getLsbD 7

/-- `w[6]`, don't-care in a NOTCH command (R80). -/
def Word.bit6 (w : Word) : BitVec 1 := w.extractLsb' 6 1

/-- `ch = w[6:5]` (R71). -/
def Word.ch (w : Word) : BitVec 2 := w.extractLsb' 5 2

/-- `value = w[4:0]` (R71), the don't-care bits of a COMMIT (R80). -/
def Word.value (w : Word) : BitVec 5 := w.extractLsb' 0 5

/-- `sel = w[5:3]` (R71). -/
def Word.sel (w : Word) : BitVec 3 := w.extractLsb' 3 3

/-- `val = w[2:0]` (R71). -/
def Word.val (w : Word) : BitVec 3 := w.extractLsb' 0 3

/-- `match = w[14:8] & DEVICE_ADDRESS`, a plain AND of all seven bits; kept as it is, hazards included (R73, R121, R127). -/
def Word.addrMatch (w : Word) (dev : DevAddr) : BitVec 7 := w.addr &&& dev

/-- The command decoder's part of the decode, for a word addressed to this device (R74, R124 to R126). -/
def decodePayload (w : Word) : Instr :=
  if w.notchsel then .notch w.addr w.bit6 w.sel w.val
  else if w.ch = 0b11#2 then .commit w.addr w.value
  else if w.ch = 0b00#2 then .setCh0 w.addr w.value
  else if w.ch = 0b01#2 then .setCh1 w.addr w.value
  else .setCh2 w.addr w.value

/-- `decode(sync, w)` of R74 for a device of address `dev`: the first case that applies. Total, and no word is illegal
(R75, R79). -/
def decode (sync : Sync) (dev : DevAddr) (w : Word) : Instr :=
  match sync with
  | .locked => if w = unlockMagic then .unlock else .lockedDrop w
  | .unlocked =>
    if w = resetMagic then .reset
    else if w.special then .rsvd (w.extractLsb' 0 15)
    else if w.addrMatch dev = 0#7 then .foreign w.addr w.payload
    else decodePayload w

/-- Why a run of bytes is no command. -/
inductive DecodeError where
  /-- Not exactly one 16-bit word: there is no other length (R70). The block never sees such a thing; safe. -/
  | notOneWord (bytes : Nat)
  deriving DecidableEq, Repr

/-- A word as two bytes in the order of the link: w[15:8] first, most significant bit first (R54; log 35). -/
def wordBytes (w : Word) : List Byte := [w.extractLsb' 8 8, w.extractLsb' 0 8]

/-- The decode of a run of bytes in link order: total on any bytes, rejecting by name what is not one word (R70). -/
def decodeBytes (sync : Sync) (dev : DevAddr) : List Byte → Except DecodeError Instr
  | [hi, lo] => .ok (decode sync dev (hi ++ lo))
  | bs => .error (.notOneWord bs.length)

/-- A field of a word: the bits `x`, the lowest at bit `k` (R71, R81). -/
def wordField {n : Nat} (x : BitVec n) (k : Nat) : Word := x.setWidth 16 <<< k

/-- The word of a command, from the `encoding` column of the opcode table (R72, R76), put together from its fields as in R81. -/
def encode : Instr → Word
  | .unlock => 0b1101_0000_0000_1101#16
  | .lockedDrop w => w
  | .reset => 0b1111_1111_1111_1111#16
  | .rsvd x => 0b1000_0000_0000_0000#16 ||| wordField x 0
  | .foreign a p => wordField a 8 ||| wordField p 0
  | .notch a x sel val =>
    0b0000_0000_1000_0000#16 ||| wordField a 8 ||| wordField x 6 ||| wordField sel 3 ||| wordField val 0
  | .commit a x => 0b0000_0000_0110_0000#16 ||| wordField a 8 ||| wordField x 0
  | .setCh0 a v => wordField a 8 ||| wordField v 0
  | .setCh1 a v => 0b0000_0000_0010_0000#16 ||| wordField a 8 ||| wordField v 0
  | .setCh2 a v => 0b0000_0000_0100_0000#16 ||| wordField a 8 ||| wordField v 0

/-- The `cond` column of the opcode map (R76). -/
inductive RowCond where
  | always
  | notWord (w : Word)
  | foreign
  | addressed
  deriving DecidableEq, Repr

/-- Whether a row's condition holds of a word (R76). -/
def RowCond.holds (dev : DevAddr) (w : Word) : RowCond → Bool
  | .always => true
  | .notWord x => w != x
  | .foreign => w.addrMatch dev == 0#7
  | .addressed => w.addrMatch dev != 0#7

/-- A row of the opcode map (R76). -/
structure OpcodeRow where
  mnemonic : String
  sync : Sync
  want : Word
  mask : Word
  cond : RowCond
  deriving DecidableEq, Repr

/-- The opcode map of R76, its rows in the spec's order: they are tried top to bottom within a state. -/
def opcodeRows : List OpcodeRow :=
  [ ⟨"UNLOCK", .locked, 0xD00D#16, 0xFFFF#16, .always⟩,
    ⟨"LOCKED_DROP", .locked, 0x0000#16, 0x0000#16, .notWord 0xD00D#16⟩,
    ⟨"RESET", .unlocked, 0xFFFF#16, 0xFFFF#16, .always⟩,
    ⟨"RSVD", .unlocked, 0x8000#16, 0x8000#16, .notWord 0xFFFF#16⟩,
    ⟨"FOREIGN", .unlocked, 0x0000#16, 0x8000#16, .foreign⟩,
    ⟨"NOTCH", .unlocked, 0x0080#16, 0x8080#16, .addressed⟩,
    ⟨"COMMIT", .unlocked, 0x0060#16, 0x80E0#16, .addressed⟩,
    ⟨"SET_CH0", .unlocked, 0x0000#16, 0x80E0#16, .addressed⟩,
    ⟨"SET_CH1", .unlocked, 0x0020#16, 0x80E0#16, .addressed⟩,
    ⟨"SET_CH2", .unlocked, 0x0040#16, 0x80E0#16, .addressed⟩ ]

/-- Whether a row takes a word in a state, on a device of address `dev` (R76). -/
def OpcodeRow.takes (r : OpcodeRow) (sync : Sync) (dev : DevAddr) (w : Word) : Bool :=
  r.sync == sync && w &&& r.mask == r.want && r.cond.holds dev w

/-- The mode in which the host's question about a bare word is answered: the row of a word depends on `sync`, and `0xD00D` is
"only meaningful while Locked" (R71); every other word is read UNLOCKED (log 12). -/
def tableSync (w : Word) : Sync := if w = unlockMagic then .locked else .unlocked

/-- The device address for which it is answered: all seven bits set, which every address field but 0 matches (log 12). -/
def tableDevice : DevAddr := 0x7F#7

/-- A number read as one word, if it has no bit above the 16 the table gives a row. -/
def tableWord (nbits w : Nat) : Option Word :=
  if nbits ≤ 16 ∧ w < 65536 then some (BitVec.ofNat 16 w) else none

/-- The command this decoder reads from the word whose bits are `w` (log 12): the word is laid out as the link carries it and
given to `decodeBytes`. -/
def decodeTableWord (nbits w : Nat) : Option Instr :=
  match tableWord nbits w with
  | none => none
  | some x =>
    match decodeBytes (tableSync x) tableDevice (wordBytes x) with
    | .ok i => some i
    | .error _ => none

end Sys2Proof
end

