-- ==== Sys2Proof/Config.lean ====
section
/-! DEFINITION. The implementation parameters the spec takes as arguments (`00_scope.md` R8, R9). A device carries its own
record of them in its state, so a claim about every state is a claim about every value of the parameters. The opaque
constants are the unknown values of the one device that `State.reset` speaks of; nothing can be proved about them. -/

namespace Sys2Proof

/-- A power-on value of an enable line: never ASSERTED (`92_eei_decisions.md` D8; log 9). -/
inductive EnableDefault where
  | deasserted
  | undriven
  deriving DecidableEq, Repr, Inhabited

/-- The line value an enable default stands for. -/
def EnableDefault.toSwitch : EnableDefault → Switch
  | .deasserted => .deasserted
  | .undriven => .undriven

/-- `GPIO_POWERON` (R9): the value of each of the eight lines at power-on, to which RESET returns them. -/
structure GpioPoweron where
  notch : Triple Switch
  data : Wire
  clk : Wire
  en : Triple EnableDefault
  deriving DecidableEq, Repr, Inhabited

/-- What ASSERTED means electrically (R9, D9). -/
inductive Polarity where
  | activeHigh
  | activeLow
  deriving DecidableEq, Repr, Inhabited

/-- `LINE_POLARITY` (R9): one polarity for each notch line and each enable line. No rule uses it. -/
structure LinePolarity where
  notch : Triple Polarity
  en : Triple Polarity
  deriving DecidableEq, Repr, Inhabited

/-- The parameters of one device, the table of R9 row by row. -/
structure Params where
  /-- `DEVICE_ADDRESS` (R8, R28): any 7-bit value. -/
  devAddr : DevAddr
  /-- `NV_INIT`: the NV record when the device first powers on (D6). -/
  nvInit : Triple Byte
  /-- `NV_ERASED`: the NV record after an erase (D5). -/
  nvErased : Triple Byte
  /-- `GPIO_POWERON` (D8). -/
  gpioPoweron : GpioPoweron
  /-- `BACKOFF_INTERVAL`: a duration in a unit the source does not audit; no rule of the model uses it (D14). -/
  backoffInterval : Nat
  /-- `LINE_POLARITY`; no rule uses it (D9). -/
  linePolarity : LinePolarity
  deriving DecidableEq, Repr, Inhabited

/-- The build-time address of the device of `State.reset`: not given by the source (log 6). -/
opaque Config.deviceAddress : DevAddr

/-- Its NV record before the first commit: not given by the source (log 7). -/
opaque Config.nvInit : Triple Byte

/-- What an erase leaves: not given by the source (log 8). -/
opaque Config.nvErased : Triple Byte

/-- Its power-on line values: not given by the source (log 9). -/
opaque Config.gpioPoweron : GpioPoweron

/-- Its backoff interval: not audited by the source (log 10). -/
opaque Config.backoffInterval : Nat

/-- Its line polarities: not given by the source (log 11). -/
opaque Config.linePolarity : LinePolarity

/-- The parameters of the device of `State.reset`. -/
def Config.params : Params where
  devAddr := Config.deviceAddress
  nvInit := Config.nvInit
  nvErased := Config.nvErased
  gpioPoweron := Config.gpioPoweron
  backoffInterval := Config.backoffInterval
  linePolarity := Config.linePolarity

end Sys2Proof
end

