-- ==== Sys2Proof/Machine/Lines.lean ====
section
/-! DEFINITION. The eight output lines, the events of the trace, and the write lists of the three actuation paths: an
attenuator transfer (`43_attenuator.md` R150), a notch command (`42_notch.md` R140) and the GPIO restore (`40_sync.md` R104). -/

namespace Sys2Proof.Machine

/-- A write of one output line (the `(l, v)` of R33's `Line(l, v)`), each line with the values it can have (R26, R27). -/
inductive LineWrite where
  | notch (i : Lane) (v : Switch)
  | data (v : Wire)
  | clk (v : Wire)
  | en (c : Lane) (v : Switch)
  deriving DecidableEq, Repr

/-- What the device does, as the outside and the spec's own model see it (R33). -/
inductive Event where
  /-- `Line(l, v)`: a line is driven, whether or not its level changes. -/
  | line (w : LineWrite)
  /-- `NvErase`. -/
  | nvErase
  /-- `NvWrite(i, v)`. -/
  | nvWrite (i : Lane) (v : Byte)
  /-- `NvRead(i, v)`. -/
  | nvRead (i : Lane) (v : Byte)
  /-- `Deliver(w)`: the receiver captured `w`. -/
  | deliver (w : Word)
  /-- `Fetch(w)`: the core took `w` from the mailbox. -/
  | fetch (w : Word)
  /-- `Arm`: the core re-armed the receiver. -/
  | arm
  | backoffBegin
  | backoffEnd
  | powerLoss
  | powerOn
  deriving DecidableEq, Repr

/-- The values of the eight output lines (R26, R27). -/
structure Pins where
  notch : Triple Switch
  data : Wire
  clk : Wire
  en : Triple Switch
  deriving DecidableEq, Repr

/-- No line driven, as without power (R232: "lines undriven"). -/
def Pins.undriven : Pins := ⟨Triple.const .undriven, .undriven, .undriven, Triple.const .undriven⟩

/-- One write: that line takes the value, every other line keeps its own. -/
def Pins.write (p : Pins) : LineWrite → Pins
  | .notch i v => { p with notch := p.notch.set i v }
  | .data v => { p with data := v }
  | .clk v => { p with clk := v }
  | .en c v => { p with en := p.en.set c v }

/-- A list of writes, in order. -/
def Pins.writeAll (p : Pins) (ws : List LineWrite) : Pins := ws.foldl Pins.write p

/-- The electrical level of a notch or enable line of polarity `p` (R9, R26: the level of ASSERTED is `LINE_POLARITY`). No rule
of the block uses it; it is how the outside reads `Params.linePolarity` (log 11). -/
def Switch.electrical (p : Polarity) : Switch → Wire
  | .undriven => .undriven
  | .asserted => match p with
    | .activeHigh => .high
    | .activeLow => .low
  | .deasserted => match p with
    | .activeHigh => .low
    | .activeLow => .high

/-- The level of a bit on the data line (R150). -/
def bitWire (b : Bool) : Wire := if b then .high else .low

/-- The four writes of one bit of a transfer (R150, D12). -/
def bitWrites (b : Bool) : List LineWrite := [.clk .low, .data (bitWire b), .clk .high, .clk .low]

/-- The bit positions of a transfer, most significant first (R55, R150). -/
def bitOrder : List Nat := [7, 6, 5, 4, 3, 2, 1, 0]

/-- The 34 writes of `Drive(c, v)` (R150). -/
def transferWrites (c : Lane) (v : Byte) : List LineWrite :=
  .en c .asserted :: (bitOrder.flatMap (fun k => bitWrites (v.getLsbD k)) ++ [.en c .deasserted])

/-- The level a NOTCH value bit asks for: set opens the relay, clear closes it (R140, C3). -/
def notchLevel (b : Bool) : Switch := if b then .deasserted else .asserted

/-- One lane of `NotchApply(f)`: nothing if its select bit `f[3+i]` is clear (R140, R141, R144). -/
def notchWrite (f : BitVec 6) (i : Lane) : List LineWrite :=
  if f.getLsbD (3 + i.idx) then [.notch i (notchLevel (f.getLsbD i.idx))] else []

/-- The writes of `NotchApply(f)`, in the order of R142. -/
def notchWrites (f : BitVec 6) : List LineWrite := Lane.all.flatMap (notchWrite f)

/-- The eight writes of `GpioDefaults()` (R104, D28). -/
def gpioDefaultWrites (g : GpioPoweron) : List LineWrite :=
  [ .notch .l0 g.notch.l0, .notch .l1 g.notch.l1, .notch .l2 g.notch.l2, .data g.data, .clk g.clk,
    .en .l0 g.en.l0.toSwitch, .en .l1 g.en.l1.toSwitch, .en .l2 g.en.l2.toSwitch ]

/-- The events of a list of line writes (R33). -/
def lineEvents (ws : List LineWrite) : List Event := ws.map .line

/-- The events of `load()` reading the bytes `r` (R52, R172). -/
def loadEvents (r : Triple Byte) : List Event := Lane.all.map fun c => .nvRead c (r.get c)

/-- The events of driving the settings `a` to the three channels in order (R103, R231). -/
def driveAllEvents (a : Triple Byte) : List Event :=
  lineEvents (Lane.all.flatMap fun c => transferWrites c (a.get c))

/-- The events of a boot that finds the record `r` (R231). -/
def bootEvents (g : GpioPoweron) (r : Triple Byte) : List Event :=
  .powerOn :: (lineEvents (gpioDefaultWrites g) ++ loadEvents r ++ driveAllEvents r ++ [.arm])

end Sys2Proof.Machine
end

