-- ==== Sys2Proof/Machine/Memory.lean ====
section
/-! DEFINITION. The block's one memory, the NV defaults record (`20_memory.md` R50, R51): offsets 0, 1 and 2 and no other. Held as
a canonical list of cells; an offset that is not listed reads as the record's contents at the first power-on, `NV_INIT`
(`10_state.md` R25; log 7). -/

namespace Sys2Proof.Machine

/-- (offset, byte) cells. -/
abbrev Memory := List Host.Cell

/-- The byte at offset `c`, for a record whose first contents are `init`. -/
def Memory.read (init : Triple Byte) (m : Memory) (c : Lane) : Byte :=
  match m with
  | [] => init.get c
  | (k, v) :: rest => if k = c.idx then v else Memory.read init rest c

/-- A cell for offset `c`, unless it would say what an unlisted offset reads as. -/
def Memory.cell (init : Triple Byte) (c : Lane) (v : Byte) : Memory :=
  if v = init.get c then [] else [(c.idx, v)]

/-- The record with byte `c` replaced, in canonical form. -/
def Memory.write (init : Triple Byte) (m : Memory) (c : Lane) (v : Byte) : Memory :=
  match m with
  | [] => Memory.cell init c v
  | (k, u) :: rest =>
    if c.idx < k then Memory.cell init c v ++ (k, u) :: rest
    else if k = c.idx then Memory.cell init c v ++ rest
    else (k, u) :: Memory.write init rest c v

/-- All three bytes replaced. -/
def Memory.writeAll (init : Triple Byte) (m : Memory) (r : Triple Byte) : Memory :=
  Lane.all.foldl (fun m c => Memory.write init m c (r.get c)) m

/-- The offset a cell's key names: the record has three (R51). -/
def Lane.ofIdx : Nat → Option Lane
  | 0 => some .l0
  | 1 => some .l1
  | 2 => some .l2
  | _ => none

/-- One cell is as it should be: an offset of the record, and a byte other than the unlisted one. -/
def Memory.cellOk (init : Triple Byte) (cell : Host.Cell) : Bool :=
  match Lane.ofIdx cell.1 with
  | none => false
  | some c => cell.2 != init.get c

/-- The canonical form: offsets of the record, strictly rising, no cell that says what an unlisted offset reads as. -/
def Memory.wf (init : Triple Byte) : Memory → Bool
  | [] => true
  | cell :: rest => Memory.cellOk init cell && rest.all (fun x => cell.1 < x.1) && Memory.wf init rest

/-- The whole record as three bytes. -/
def Memory.record (init : Triple Byte) (m : Memory) : Triple Byte :=
  ⟨Memory.read init m .l0, Memory.read init m .l1, Memory.read init m .l2⟩

end Sys2Proof.Machine
end

