-- ==== Sys2Proof/Machine/State.lean ====
section
/-! DEFINITION. The state of one device (`10_state.md` R20 to R35), the record of a step in progress, the reasons a step can
stop, and the state after reset. -/

namespace Sys2Proof.Machine

/-- The receiver's state (R31). -/
inductive Receiver where
  | armed
  | held
  deriving DecidableEq, Repr, Inhabited

/-- What a powered core is doing: the values of `phase` other than OFF (R32). -/
inductive Activity where
  /-- SLEEP: idle, waiting for `ready`. -/
  | sleep
  /-- EXEC(w): `w` has been fetched and is being executed. -/
  | exec (w : Word)
  /-- BACKOFF: the Locked-mismatch pause is running. -/
  | backoff
  deriving DecidableEq, Repr

/-- `phase` (R32). -/
inductive Phase where
  | off
  | sleep
  | exec (w : Word)
  | backoff
  deriving DecidableEq, Repr

/-- The phase of a powered core. -/
def Activity.phase : Activity → Phase
  | .sleep => .sleep
  | .exec w => .exec w
  | .backoff => .backoff

/-- The state that a power loss takes away (R21, R35): it exists only while the device is powered (log 4). -/
structure Volatile where
  /-- The sync state, the block's only mode (R22). -/
  sync : Sync
  /-- The working attenuator settings, 8 bits each (R23). -/
  att : Triple Byte
  /-- The notch lines and the attenuator bus (R26, R27). -/
  pins : Pins
  /-- The captured command word, or no value (R29). -/
  mbox : Option Word
  /-- The ready flag (R30). -/
  ready : Bool
  /-- The receiver's state (R31). -/
  rx : Receiver
  /-- The core's sequencer state while powered (R32). -/
  activity : Activity
  deriving DecidableEq, Repr

/-- One free choice of the environment: which agent may move next and with what values (R20; log 1). Nothing constrains a
list of them. -/
inductive Input where
  /-- Nothing happens outside: the core takes its enabled step, if it has one. -/
  | run
  /-- The link presents a whole word `w`, any 16-bit value (R202, R205, U10). -/
  | word (w : Word)
  /-- Power comes on (R231). -/
  | powerOn
  /-- Power fails between two steps (R232). -/
  | powerLoss
  /-- Power fails inside the step that is enabled, after `k` of its events; `draw` is what an interrupted commit leaves in the
  record, any three bytes (R174, R232, U5, U15). -/
  | powerLossIn (k : Nat) (draw : Triple Byte)
  deriving DecidableEq, Repr

/-- The state of one device (R21), with the parameters of the device (R9) and the environment's coming choices. -/
structure State where
  /-- `DEVICE_ADDRESS` (R28) and the other parameters (R9); no step writes them. -/
  params : Params
  /-- The NV record (R25, R51). -/
  nv : Memory
  /-- The events emitted so far, oldest first; never cleared (R33). -/
  trace : List Event
  /-- What the environment does next: the model's own field (log 1). Empty: nothing more happens outside (log 2). -/
  inputs : List Input
  /-- The volatile state, or nothing in phase OFF, when its elements hold no value (R35, R232). -/
  live : Option Volatile
  deriving DecidableEq, Repr

/-- `phase` of R32. -/
def State.phase (s : State) : Phase :=
  match s.live with
  | none => .off
  | some v => v.activity.phase

/-- Byte `c` of the NV record (R25). -/
def State.nvByte (s : State) (c : Lane) : Byte := Memory.read s.params.nvInit s.nv c

/-- The three bytes of the NV record. -/
def State.nvRecord (s : State) : Triple Byte := Memory.record s.params.nvInit s.nv

/-- Where the store stands inside one commit (R171). -/
inductive StorePhase where
  | idle
  | erased
  | wrote (c : Lane)
  deriving DecidableEq, Repr

/-- A step in progress: the state of a powered device as one flat record, with the store's position, which is IDLE between
steps (R171; log 29). -/
structure Running extends Volatile where
  params : Params
  nv : Memory
  trace : List Event
  inputs : List Input
  store : StorePhase
  deriving DecidableEq, Repr

/-- Why a step can stop. No rule of the spec raises any of these on a state that a run reaches (R200). -/
inductive Fault where
  /-- The fetch step reads `mbox` while it holds no value (R29, U13). Raised by the fetch step. Safe: the spec says that such a
  read faults and that no run reaches it. -/
  | mailboxEmpty
  /-- A write to the NV record out of the erase and write sequence (R53, R171, U12). Raised by `Running.memWrite`. Safe: the spec
  says that no rule performs one and that a model which reached one should fault. -/
  | nvNotErased
  /-- A command is run on a device without power, whose volatile elements hold no value (R32, R232). Raised by every meaning.
  Safe: in OFF no agent but Power has a step, and `step` never runs a command there (log 31). -/
  | unpowered
  deriving DecidableEq, Repr

/-- Why an instruction has no meaning in the model. -/
inductive Refusal where
  /-- The command is not modelled. Raised by no arm: every command of the table has its meaning. Safe. -/
  | notModelled (mnemonic : String)
  deriving DecidableEq, Repr

/-- The device of the parameters `p` before its first power-on (R35, last line; R230). -/
def State.factory (p : Params) : State where
  params := p
  nv := []
  trace := []
  inputs := []
  live := none

/-- What a boot that finds the record `r` leaves in the volatile state (R35). -/
def Volatile.afterBoot (g : GpioPoweron) (r : Triple Byte) : Volatile where
  sync := .locked
  att := r
  pins := { notch := g.notch, data := bitWire (r.l2.getLsbD 0), clk := .low, en := Triple.const .deasserted }
  mbox := none
  ready := false
  rx := .armed
  activity := .sleep

/-- The machine right after reset: the table of R35 after the first power-on of a device of unknown parameters, nothing
coming from outside (log 2, log 5). -/
def State.reset : State where
  params := Config.params
  nv := []
  trace := bootEvents Config.params.gpioPoweron Config.params.nvInit
  inputs := []
  live := some (Volatile.afterBoot Config.params.gpioPoweron Config.params.nvInit)

end Sys2Proof.Machine
end

