-- ==== Sys2Proof/Machine/Flags.lean ====
section
/-! DEFINITION. The one flag of the block, `ready`, with the mailbox it speaks of and the receiver it holds
(`10_state.md` R29 to R31, `20_memory.md` R63). The block has no condition codes. -/

namespace Sys2Proof.Machine

/-- The receive context's writes: the word and the flag change together, and reception is held (R202). -/
def Volatile.capture (v : Volatile) (w : Word) : Volatile :=
  { v with mbox := some w, ready := true, rx := .held }

/-- The fetch step's writes: the flag is cleared, the word is being executed, and the mailbox keeps the word it held
(R203, R233). -/
def Volatile.take (v : Volatile) (w : Word) : Volatile :=
  { v with ready := false, activity := .exec w }

/-- The re-arm of the receiver and the return to sleep (R100). -/
def Volatile.rearm (v : Volatile) : Volatile :=
  { v with rx := .armed, activity := .sleep }

end Sys2Proof.Machine
end

