-- ==== Sys2Proof/Machine/Operands.lean ====
section
/-! DEFINITION. Operand assembly (`30_encoding.md` R73): what a command makes of the fields it carries. -/

namespace Sys2Proof.Machine

/-- The value a SET stores: `zext_8` of the 5-bit field, so 0 to 31 (R73, R125). -/
def settingOperand (v : BitVec 5) : Byte := v.setWidth 8

/-- The 6-bit field `f = w[5:0]` of a NOTCH: the select bits above the value bits (R73, R124). -/
def notchOperand (sel val : BitVec 3) : BitVec 6 := sel ++ val

end Sys2Proof.Machine
end

