-- ==== Sys2Proof/Machine/Ops.lean ====
section
/-! DEFINITION. The operations the commands share, and the steps of the receiver, of the power supply and of the core outside a
command. An operation on a `Running` is one action inside a step; a step begins with `State.begin` and ends with
`Running.finish`. -/

namespace Sys2Proof.Machine

/-- The flat record of a step that begins on `s`, whose volatile state is `v`; the store is IDLE (R171). -/
def State.begin (s : State) (v : Volatile) : Running where
  toVolatile := v
  params := s.params
  nv := s.nv
  trace := s.trace
  inputs := s.inputs
  store := .idle

/-- The state a step leaves. -/
def Running.finish (r : Running) : State where
  params := r.params
  nv := r.nv
  trace := r.trace
  inputs := r.inputs
  live := some r.toVolatile

/-- `Emit`, several events in order (R11). -/
def Running.emit (r : Running) (es : List Event) : Running := { r with trace := r.trace ++ es }

/-- `REARM` (R100). -/
def Running.rearm (r : Running) : Running := ({ r with toVolatile := r.toVolatile.rearm }).emit [.arm]

/-- A list of line writes, each with its event (R33). -/
def Running.writeLines (r : Running) (ws : List LineWrite) : Running :=
  ({ r with pins := r.pins.writeAll ws }).emit (lineEvents ws)

/-- `GpioDefaults()` (R104). -/
def Running.gpioDefaults (r : Running) : Running := r.writeLines (gpioDefaultWrites r.params.gpioPoweron)

/-- `NotchApply(f)` (R140). -/
def Running.notchApply (r : Running) (f : BitVec 6) : Running := r.writeLines (notchWrites f)

/-- `Drive(c, v)` (R150). -/
def Running.drive (r : Running) (c : Lane) (v : Byte) : Running := r.writeLines (transferWrites c v)

/-- Driving the working settings to channels 0, 1, 2 in order (R103, R231). -/
def Running.driveAll (r : Running) : Running := Lane.all.foldl (fun r c => r.drive c (r.att.get c)) r

/-- A write of one working setting (R125). -/
def Running.setAtt (r : Running) (c : Lane) (v : Byte) : Running := { r with att := r.att.set c v }

/-- `MemRead(i, 1)`: the byte and its event; the record is not changed (R52, R60). -/
def Running.memRead (r : Running) (i : Lane) : Byte × Running :=
  let v := Memory.read r.params.nvInit r.nv i
  (v, r.emit [.nvRead i v])

/-- `MemErase()`: the whole record takes its erased contents (R52). -/
def Running.memErase (r : Running) : Running :=
  ({ r with nv := Memory.writeAll r.params.nvInit r.nv r.params.nvErased, store := .erased }).emit [.nvErase]

/-- Where a write of byte `i` takes the store, if it may follow: no state is skipped or reordered (R171). -/
def StorePhase.afterWrite : StorePhase → Lane → Option StorePhase
  | .erased, .l0 => some (.wrote .l0)
  | .wrote .l0, .l1 => some (.wrote .l1)
  | .wrote .l1, .l2 => some (.wrote .l2)
  | _, _ => none

/-- `MemWrite(i, 1, v)` (R52), which always succeeds (R175) where the sequence allows it (R53, U12). -/
def Running.memWrite (r : Running) (i : Lane) (v : Byte) : Except Fault Running :=
  match r.store.afterWrite i with
  | none => .error .nvNotErased
  | some p => .ok (({ r with nv := Memory.write r.params.nvInit r.nv i v, store := p }).emit [.nvWrite i v])

/-- The writes of a commit, in the order of the list (R170). -/
def Running.writeBack (r : Running) : List Lane → Except Fault Running
  | [] => .ok r
  | c :: cs =>
    match r.memWrite c (r.att.get c) with
    | .error e => .error e
    | .ok r' => r'.writeBack cs

/-- `commit()`: erase, then write the three working settings; the store ends IDLE (R170, R171). -/
def Running.commit (r : Running) : Except Fault Running :=
  match r.memErase.writeBack Lane.all with
  | .error e => .error e
  | .ok r' => .ok { r' with store := .idle }

/-- One round of `load()`: `att[c] <- MemRead(c, 1)` (R172). -/
def Running.loadOne (r : Running) (c : Lane) : Running :=
  let (v, r') := r.memRead c
  r'.setAtt c v

/-- `load()`: the record is copied into the working settings as it is (R172). -/
def Running.load (r : Running) : Running := Lane.all.foldl Running.loadOne r

/-- A command step on `s`: what `f` makes of a powered device; a device in OFF has no command step (R32). -/
def State.attempt (s : State) (f : Running → Except Fault Running) : Host.Outcome State Fault Refusal :=
  match s.live with
  | none => .fault .unpowered
  | some v =>
    match f (s.begin v) with
    | .error e => .fault e
    | .ok r => .next r.finish

/-- A command step that cannot stop. -/
def State.command (s : State) (f : Running → Running) : Host.Outcome State Fault Refusal :=
  s.attempt fun r => .ok (f r)

/-- The receiver step for a word the link presents (R202): taken only by a powered device whose receiver is ARMED; otherwise the
word is not delivered (R205). It is the block's one interrupt: it saves no state, changes no mode, and ends by itself
(R204, R207, R208). -/
def State.receive (s : State) (w : Word) : State :=
  match s.live with
  | none => s
  | some v =>
    if v.rx = .armed then { s with live := some (v.capture w), trace := s.trace ++ [.deliver w] } else s

/-- The fetch step, for a device whose volatile state is `v`, `phase = SLEEP` and `ready = 1` (R203). -/
def State.fetch (s : State) (v : Volatile) : Host.Outcome State Fault Refusal :=
  match v.mbox with
  | none => .fault .mailboxEmpty
  | some w => .next { s with live := some (v.take w), trace := s.trace ++ [.fetch w] }

/-- The backoff end (R106): the return from the Locked-mismatch pause. -/
def State.backoffEnd (s : State) (v : Volatile) : State := ((s.begin v).emit [.backoffEnd]).rearm.finish

/-- The volatile state with which a boot starts (R231): the sync state, the flag and the mailbox as boot sets them, no line driven
yet, the receiver not armed. The settings are read from the record before anything looks at them. -/
def State.bootStart (s : State) : Volatile where
  sync := .locked
  att := s.nvRecord
  pins := Pins.undriven
  mbox := none
  ready := false
  rx := .held
  activity := .sleep

/-- Boot, the power-on step (R231). -/
def State.boot (s : State) : State :=
  ((s.begin s.bootStart).emit [.powerOn]).gpioDefaults.load.driveAll.rearm.finish

/-- Power comes on: boot, enabled in OFF only (R231). -/
def State.powerOn (s : State) : State :=
  match s.live with
  | none => s.boot
  | some _ => s

/-- A device that loses power after emitting `es`, the record then being `nv` (R232). -/
def State.goOff (s : State) (es : List Event) (nv : Memory) : State :=
  { s with nv := nv, trace := s.trace ++ es ++ [.powerLoss], live := none }

/-- Power fails between two steps, enabled while the device is powered (R232). -/
def State.powerLoss (s : State) : State :=
  match s.live with
  | none => s
  | some _ => s.goOff [] s.nv

end Sys2Proof.Machine
end

