-- ==== Sys2Proof/Machine/Decoder.lean ====
section
/-! DEFINITION. The commands of the command decoder: RSVD, FOREIGN, NOTCH, SET, COMMIT (`41_decoder.md` R122 to R126). None
writes the sync state (R120). -/

namespace Sys2Proof.Machine

/-- RSVD (R122): ignored; only the re-arm. -/
def execRsvd (_x : BitVec 15) (s : State) : Host.Outcome State Fault Refusal :=
  s.command fun r => r.rearm

/-- FOREIGN (R123): ignored; no payload bit is examined. -/
def execForeign (_a : BitVec 7) (_p : BitVec 8) (s : State) : Host.Outcome State Fault Refusal :=
  s.command fun r => r.rearm

/-- NOTCH (R124): the selected notch lines take their value bits; bit 6 of the payload is don't-care (R80). -/
def execNotch (_a : BitVec 7) (_x : BitVec 1) (sel val : BitVec 3) (s : State) : Host.Outcome State Fault Refusal :=
  s.command fun r => (r.notchApply (notchOperand sel val)).rearm

/-- COMMIT (R126): bits 4:0 are don't-care (R80). -/
def execCommit (_a : BitVec 7) (_x : BitVec 5) (s : State) : Host.Outcome State Fault Refusal :=
  s.attempt fun r =>
    match r.commit with
    | .error e => .error e
    | .ok r' => .ok r'.rearm

/-- SET of channel `c` (R125): store the zero-extended field, then drive the channel with what was stored. -/
def Running.setChannel (r : Running) (c : Lane) (v : BitVec 5) : Running :=
  let r' := r.setAtt c (settingOperand v)
  (r'.drive c (r'.att.get c)).rearm

/-- SET of channel 0 (R125). -/
def execSetCh0 (_a : BitVec 7) (v : BitVec 5) (s : State) : Host.Outcome State Fault Refusal :=
  s.command fun r => r.setChannel .l0 v

/-- SET of channel 1 (R125). -/
def execSetCh1 (_a : BitVec 7) (v : BitVec 5) (s : State) : Host.Outcome State Fault Refusal :=
  s.command fun r => r.setChannel .l1 v

/-- SET of channel 2 (R125). -/
def execSetCh2 (_a : BitVec 7) (v : BitVec 5) (s : State) : Host.Outcome State Fault Refusal :=
  s.command fun r => r.setChannel .l2 v

end Sys2Proof.Machine
end

