-- ==== Sys2Proof/Machine/Sync.lean ====
section
/-! DEFINITION. The commands of the synchronization state machine: UNLOCK, LOCKED_DROP, RESET (`40_sync.md` R101 to R103). -/

namespace Sys2Proof.Machine

/-- UNLOCK (R101): no backoff follows. -/
def execUnlock (s : State) : Host.Outcome State Fault Refusal :=
  s.command fun r => ({ r with sync := .unlocked }).rearm

/-- LOCKED_DROP (R102): the word is not looked at; the receiver stays HELD until the backoff ends. -/
def execLockedDrop (_w : Word) (s : State) : Host.Outcome State Fault Refusal :=
  s.command fun r => { r.emit [.backoffBegin] with activity := .backoff }

/-- RESET (R103): lock, restore the lines, reload the settings, drive them, re-arm, in the order of D11. -/
def execReset (s : State) : Host.Outcome State Fault Refusal :=
  s.command fun r => ({ r with sync := .locked }).gpioDefaults.load.driveAll.rearm

end Sys2Proof.Machine
end

