-- ==== Sys2Proof/Machine/Dispatch.lean ====
section
/-! DEFINITION. One meaning for each command (`40_sync.md` R100). -/

namespace Sys2Proof.Machine

def exec (i : Instr) (s : State) : Host.Outcome State Fault Refusal :=
  match i with
  | .unlock => Sys2Proof.Machine.execUnlock s
  | .lockedDrop w => Sys2Proof.Machine.execLockedDrop w s
  | .reset => Sys2Proof.Machine.execReset s
  | .rsvd x => Sys2Proof.Machine.execRsvd x s
  | .foreign a p => Sys2Proof.Machine.execForeign a p s
  | .notch a x sel val => Sys2Proof.Machine.execNotch a x sel val s
  | .commit a x => Sys2Proof.Machine.execCommit a x s
  | .setCh0 a v => Sys2Proof.Machine.execSetCh0 a v s
  | .setCh1 a v => Sys2Proof.Machine.execSetCh1 a v s
  | .setCh2 a v => Sys2Proof.Machine.execSetCh2 a v s

end Sys2Proof.Machine
end

