-- ==== Sys2Proof/Machine/Agents.lean ====
section
/-! DEFINITION. The steps of the three agents put together (`10_state.md` R20, `60_exceptions.md` R206): which step the core has
enabled, a power loss that cuts a step short (`70_reset_and_hazards.md` R232), and what one choice of the environment does. -/

namespace Sys2Proof.Machine

/-- The command the device would run for the word `w` (R74, R100). -/
def State.commandFor (s : State) (v : Volatile) (w : Word) : Instr := decode v.sync s.params.devAddr w

/-- The core's enabled step, if it has one: the fetch step, a command step or the backoff end (R206). In OFF and in SLEEP with
nothing pending it has none, and the state stays as it is (R32, R215; log 2). -/
def State.coreStep (s : State) : Host.Outcome State Fault Refusal :=
  match s.live with
  | none => .next s
  | some v =>
    match v.activity with
    | .sleep => if v.ready then s.fetch v else .next s
    | .exec w => exec (s.commandFor v w) s
    | .backoff => .next (s.backoffEnd v)

/-- The events of the step that a power loss now would cut short: in OFF the power-on step, otherwise the core's enabled step;
none where no step is enabled (R232). -/
def State.inFlight (s : State) : List Event :=
  match s.live with
  | none => s.boot.trace.drop s.trace.length
  | some _ =>
    match s.coreStep with
    | .next t => t.trace.drop s.trace.length
    | .fault _ => []
    | .refused _ => []

/-- Whether a command is COMMIT. -/
def isCommit : Instr → Bool
  | .commit _ _ => true
  | _ => false

/-- Whether the step that a power loss now would cut short is a COMMIT step (R174, R232). -/
def State.committing (s : State) : Bool :=
  match s.live with
  | none => false
  | some v =>
    match v.activity with
    | .exec w => isCommit (s.commandFor v w)
    | .sleep => false
    | .backoff => false

/-- Power fails inside the enabled step after `k` of its events: none of its state writes is performed, and if it is a COMMIT
every byte of the record is whatever `draw` says (R174, R232). -/
def State.powerLossIn (s : State) (k : Nat) (draw : Triple Byte) : State :=
  s.goOff (s.inFlight.take k) (if s.committing then Memory.writeAll s.params.nvInit s.nv draw else s.nv)

/-- What one choice of the environment does. A choice whose step is not enabled changes nothing (log 3). -/
def State.react (s : State) : Input → Host.Outcome State Fault Refusal
  | .run => s.coreStep
  | .word w => .next (s.receive w)
  | .powerOn => .next s.powerOn
  | .powerLoss => .next s.powerLoss
  | .powerLossIn k draw => .next (s.powerLossIn k draw)

/-- One step of the device: the next choice of the environment, or, where nothing more happens outside, the core's (log 1, log 2). -/
def State.advance (s : State) : Host.Outcome State Fault Refusal :=
  match s.inputs with
  | [] => s.coreStep
  | x :: xs => State.react { s with inputs := xs } x

/-- The volatile state of a powered device; a device in OFF is booted for it. -/
def State.liveOrBoot (s : State) : Volatile :=
  match s.live with
  | none => Volatile.afterBoot s.params.gpioPoweron s.nvRecord
  | some v => v

/-- A device about to take the command step for the word `w`, on the terms of `decodeTableWord` (log 12). -/
def State.aboutToRun (s : State) (w : Word) : State :=
  { s with
    params := { s.params with devAddr := tableDevice }
    inputs := []
    live := some { s.liveOrBoot with
      sync := tableSync w
      mbox := some w
      ready := false
      rx := .held
      activity := .exec w } }

end Sys2Proof.Machine
end

