-- ==== Sys2Proof/Machine/Step.lean ====
section
/-! DEFINITION. The step of one device and the host's way of placing one command before it. -/

namespace Sys2Proof.Machine

/-- One step (`10_state.md` R20, `20_memory.md` R62). -/
def step (s : State) : Host.Outcome State Fault Refusal := s.advance

/-- `s` with the word whose bits are `w` fetched and about to be executed, so that the next step runs its command
(log 5, log 12). -/
def State.withFetchWord (s : State) (nbits w : Nat) : State :=
  match tableWord nbits w with
  | none => s
  | some x => s.aboutToRun x

end Sys2Proof.Machine
end

