-- ==== Sys2Proof/Machine/Assembler.lean ====
section
/-! DEFINITION. The spec's own text form of words (`30_encoding.md` R81) and the resynchronization sequence (R82). No rule of the
machine uses either: which command a word spells is decided by the decode alone. -/

namespace Sys2Proof.Machine

/-- The statements of R81, operands as the numbers written. -/
inductive Asm where
  | unlock
  | reset
  | set (a ch v : Nat)
  | commit (a x : Nat)
  | notch (a sel val b6 : Nat)
  | word (w : Nat)
  deriving DecidableEq, Repr

/-- `COMMIT a` without its don't-care operand (R81). -/
def Asm.commitPlain (a : Nat) : Asm := .commit a 0

/-- `NOTCH a, sel, val` without its don't-care operand (R81). -/
def Asm.notchPlain (a sel val : Nat) : Asm := .notch a sel val 0

/-- The number of a word, refused if the operands are outside their limits (R81). -/
def Asm.number : Asm → Option Nat
  | .unlock => some 0xD00D
  | .reset => some 0xFFFF
  | .set a ch v => if a ≤ 0x7F ∧ ch ≤ 2 ∧ v ≤ 31 then some (a * 256 + ch * 32 + v) else none
  | .commit a x => if a ≤ 0x7F ∧ x ≤ 31 then some (a * 256 + 0x60 + x) else none
  | .notch a sel val b6 =>
    if a ≤ 0x7F ∧ sel ≤ 7 ∧ val ≤ 7 ∧ b6 ≤ 1 then some (a * 256 + 0x80 + b6 * 64 + sel * 8 + val) else none
  | .word w => if w ≤ 0xFFFF then some w else none

/-- The word a statement assembles to (R81). -/
def assemble (x : Asm) : Option Word := x.number.map (BitVec.ofNat 16)

/-- `RESYNC` (R82). -/
def resync : List Word := [resetMagic, resetMagic, unlockMagic, unlockMagic]

end Sys2Proof.Machine
end

