-- ==== Sys2Proof/Machine/Fleet.lean ====
section
/-! DEFINITION. The fleet on one shared link (`60_exceptions.md` R214): a list of devices that share no state, each with its own
`DEVICE_ADDRESS`; every device hears every word the host sends, and takes it only if its own receiver is ARMED. -/

namespace Sys2Proof.Machine

/-- The host sends the word `w` to every board at once (R2, R214). -/
def fleetHears (w : Word) (fleet : List State) : List State := fleet.map fun s => s.receive w

/-- Device `n` of the fleet takes one step of its own; there may be no such device (R214). -/
def fleetStep (fleet : List State) (n : Nat) : Host.Outcome (List State) Fault Refusal :=
  match fleet[n]? with
  | none => .next fleet
  | some s =>
    match step s with
    | .next t => .next (fleet.set n t)
    | .fault e => .fault e
    | .refused e => .refused e

end Sys2Proof.Machine
end

