-- ==== Sys2Proof/Safety.lean ====
section
/-! DEFINITION. The terms in which claims speak of runs: the invariants of the two contexts (`10_state.md` R34), the Locked state
(`40_sync.md` R108), the range of the settings (R24), what a transfer fixes (`43_attenuator.md` R151), the lines as the trace
shows them (R33), and the quiescent point (`70_reset_and_hazards.md` R235). -/

namespace Sys2Proof.Machine

/-- The three invariants of R34 on a powered device. -/
def Volatile.contextsAgree (v : Volatile) : Prop :=
  (v.activity ≠ .sleep → v.rx = .held) ∧
  (v.ready = true → v.rx = .held ∧ v.activity = .sleep) ∧
  (v.rx = .armed → v.ready = false ∧ v.activity = .sleep)

/-- R34 on a device that may be off. -/
def State.ContextsAgree (s : State) : Prop := ∀ v, s.live = some v → v.contextsAgree

/-- The mailbox holds a word whenever the ready flag is set (R29, R30). -/
def State.MailboxFilled (s : State) : Prop := ∀ v, s.live = some v → v.ready = true → v.mbox ≠ none

/-- What R108 says of a LOCKED device: the settings are the record's, and every line is where boot and RESET leave it. -/
def State.LockedSettled (s : State) : Prop :=
  ∀ v, s.live = some v → v.sync = .locked →
    (∀ c, v.att.get c = s.nvByte c) ∧
    v.pins.notch = s.params.gpioPoweron.notch ∧
    (∀ c, v.pins.en.get c = .deasserted) ∧
    v.pins.clk = .low ∧
    v.pins.data = bitWire (v.att.l2.getLsbD 0)

/-- The NV record is in its canonical form. -/
def State.MemoryCanonical (s : State) : Prop := Memory.wf s.params.nvInit s.nv = true

/-- A setting in the range 0 to 31 (R24). -/
def inRange (b : Byte) : Prop := b.toNat ≤ 31

/-- The range invariant of R24: every byte of the record and every working setting is 0 to 31. -/
def State.SettingsInRange (s : State) : Prop :=
  (∀ c, inRange (s.nvByte c)) ∧ (∀ v, s.live = some v → ∀ c, inRange (v.att.get c))

/-- A choice of the environment leaves no byte above 31 in the record: all do but a draw of an interrupted commit (R24, R174). -/
def Input.drawsInRange : Input → Prop
  | .powerLossIn _ draw => ∀ c, inRange (draw.get c)
  | .run => True
  | .word _ => True
  | .powerOn => True
  | .powerLoss => True

/-- The quiescent point of R235. -/
def State.Quiescent (s : State) : Prop :=
  ∃ v, s.live = some v ∧ v.activity = .sleep ∧ v.ready = false ∧ v.rx = .armed

/-- The lines after one event of a trace: a line write drives its line, a power loss leaves every line undriven (R33, R232). -/
def Pins.afterEvent (p : Pins) : Event → Pins
  | .line w => p.write w
  | .powerLoss => Pins.undriven
  | _ => p

/-- The lines as a trace shows them, from a device that has never been powered (R33). -/
def linesOfTrace (es : List Event) : Pins := es.foldl Pins.afterEvent Pins.undriven

/-- The lines of a device: without power none is driven (R232). -/
def State.pins (s : State) : Pins :=
  match s.live with
  | none => Pins.undriven
  | some v => v.pins

/-- The trace tells what the lines hold (R33). -/
def State.TraceShowsLines (s : State) : Prop := linesOfTrace s.trace = s.pins

/-- At most one enable line is ASSERTED (R153). -/
def Pins.OneEnable (p : Pins) : Prop :=
  ∀ c d, p.en.get c = .asserted → p.en.get d = .asserted → c = d

/-- R153 at every point of a trace. -/
def OneEnableThroughout (es : List Event) : Prop := ∀ k, (linesOfTrace (es.take k)).OneEnable

/-- No enable line is ASSERTED. -/
def Pins.NoEnable (p : Pins) : Prop := ∀ c, p.en.get c ≠ .asserted

/-- The enables of a device: none is ASSERTED now, and at most one was at every point of its trace (R153). -/
def State.EnablesExclusive (s : State) : Prop :=
  s.TraceShowsLines ∧ s.pins.NoEnable ∧ OneEnableThroughout s.trace

/-- What one write adds to the bits that channel `c` has seen: the data line at a rising edge of the clock while `en[c]` is
ASSERTED. An edge is a write of another level than the line had (R33, R151). -/
def risingSample (c : Lane) (p : Pins) : LineWrite → List Wire
  | .clk .high => if p.clk ≠ .high ∧ p.en.get c = .asserted then [p.data] else []
  | _ => []

/-- The data levels at the rising edges of the clock while `en[c]` is ASSERTED, along a list of writes from the lines `p` (R151). -/
def risingSamples (c : Lane) (p : Pins) : List LineWrite → List Wire
  | [] => []
  | w :: ws => risingSample c p w ++ risingSamples c (p.write w) ws

/-- The levels of the bits of a byte, most significant first (R151). -/
def bitsMsbFirst (v : Byte) : List Wire := bitOrder.map fun k => bitWire (v.getLsbD k)

/-- The SET command for channel `c`, address field `a` and setting `d` (R125). -/
def setCommand (c : Lane) (a : BitVec 7) (d : BitVec 5) : Instr :=
  match c with
  | .l0 => .setCh0 a d
  | .l1 => .setCh1 a d
  | .l2 => .setCh2 a d

/-- The environment does nothing before the core's next step; `rest` is what it does afterwards (log 1, log 2). -/
def State.CoreMoves (s : State) (rest : List Input) : Prop :=
  s.inputs = .run :: rest ∨ (s.inputs = [] ∧ rest = [])

/-- `n` steps of the device, stopping at the first fault or refusal. -/
def runSteps : Nat → State → Host.Outcome State Fault Refusal
  | 0, s => .next s
  | n + 1, s =>
    match step s with
    | .next t => runSteps n t
    | .fault e => .fault e
    | .refused e => .refused e

/-- The events one step emitted: those that `t` has beyond `s`. -/
def newEvents (s t : State) : List Event := t.trace.drop s.trace.length

end Sys2Proof.Machine
end

