-- ==== Sys2Proof/Certificates/Slice0/Obligations.lean ====
section
/-! DEFINITION. The statements about the block, each from the numbered rules of `spec/` that its docstring names. -/

open Sys2Proof Sys2Proof.Machine

/-! ### Encoding and decoding -/

/-- For every device address and every command that meets its row's condition, the decoder, in the mode of the row, reads the
encoder's word back as that command, with every operand bit (R72, R74, R76). -/
def Obligations.DecodeOfEncodeIsIdentity : Prop :=
  ∀ (dev : DevAddr) (i : Instr), i.wellFormed dev = true → decode i.rowSync dev (encode i) = i

/-- For every mode, device address and word, the encoder gives back the word that was decoded: no bit is dropped (R70, R74). -/
def Obligations.EncodeOfDecodeIsIdentity : Prop :=
  ∀ (sync : Sync) (dev : DevAddr) (w : Word), encode (decode sync dev w) = w

/-- Every decoded command meets the condition of its row, and its row is one of the mode it was decoded in (R76). -/
def Obligations.DecodedCommandMeetsItsRow : Prop :=
  ∀ (sync : Sync) (dev : DevAddr) (w : Word),
    (decode sync dev w).wellFormed dev = true ∧ (decode sync dev w).rowSync = sync

/-- For every mode, device address and word exactly one row of the opcode map takes the word, and the decoder selects it
(R75, R76). -/
def Obligations.ExactlyOneRowTakesAWord : Prop :=
  ∀ (sync : Sync) (dev : DevAddr) (w : Word),
    (opcodeRows.filter fun r => r.takes sync dev w).map OpcodeRow.mnemonic = [(decode sync dev w).mnemonic]

/-- Words written out from the spec's encodings decode to the commands they stand for (R74, R76, R77, and the words of W4, W5, W6
and W11). -/
def Obligations.SpecWordsDecode : Prop :=
  decode .locked 0x01#7 0b1101_0000_0000_1101#16 = .unlock ∧
  decode .locked 0x01#7 0b1111_1111_1111_1111#16 = .lockedDrop 0xFFFF#16 ∧
  decode .unlocked 0x01#7 0b1111_1111_1111_1111#16 = .reset ∧
  decode .unlocked 0x01#7 0b1101_0000_0000_1101#16 = .rsvd 0x500D#15 ∧
  decode .unlocked 0x01#7 0b0_0000010_00111111#16 = .foreign 0x02#7 0x3F#8 ∧
  decode .unlocked 0x01#7 0b0_0000001_1_0_011_011#16 = .notch 0x01#7 0#1 3#3 3#3 ∧
  decode .unlocked 0x01#7 0b0_0000001_011_00000#16 = .commit 0x01#7 0#5 ∧
  decode .unlocked 0x01#7 0b0_0000001_000_11001#16 = .setCh0 0x01#7 25#5 ∧
  decode .unlocked 0x01#7 0b0_0000001_001_11111#16 = .setCh1 0x01#7 31#5 ∧
  decode .unlocked 0x01#7 0b0_0000001_010_10001#16 = .setCh2 0x01#7 17#5

/-- While UNLOCKED a word with bit 15 clear is FOREIGN exactly when its address field ANDed with the device address is zero
(R121, R123). -/
def Obligations.ForeignExactlyWhenNoMatch : Prop :=
  ∀ (dev : DevAddr) (w : Word), w.getLsbD 15 = false →
    (decode .unlocked dev w = .foreign (w.extractLsb' 8 7) (w.extractLsb' 0 8) ↔ w.extractLsb' 8 7 &&& dev = 0#7)

/-- The address match split into group bit and controller bits: both group bits set, or a controller bit in common; the groups
need not agree (R127, R128). -/
def Obligations.AddressMatchByGroupAndController : Prop :=
  ∀ (G g : BitVec 1) (M c : BitVec 6) (w : Word), w.addr = G ++ M →
    (w.addrMatch (g ++ c) ≠ 0#7 ↔ (G = 1#1 ∧ g = 1#1) ∨ M &&& c ≠ 0#6)

/-- Words that differ only in don't-care bits have the same effect in every state: any two dropped words while LOCKED; any two
reserved words; any two unlocked words with bit 15 clear, the same match and the same payload; two NOTCH words that differ in
bit 6; two COMMIT words that differ in bits 4:0 (R80). -/
def Obligations.DontCareBitsHaveNoEffect : Prop :=
  ∀ (s : State) (dev : DevAddr) (w w' : Word),
    (w ≠ 0xD00D#16 → w' ≠ 0xD00D#16 → exec (decode .locked dev w) s = exec (decode .locked dev w') s) ∧
    (w.special = true → w'.special = true → w ≠ 0xFFFF#16 → w' ≠ 0xFFFF#16 →
      exec (decode .unlocked dev w) s = exec (decode .unlocked dev w') s) ∧
    (w.special = false → w'.special = false → w.addrMatch dev = w'.addrMatch dev → w.payload = w'.payload →
      exec (decode .unlocked dev w) s = exec (decode .unlocked dev w') s) ∧
    (w.special = false → w.notchsel = true → w &&& 0xFFBF#16 = w' &&& 0xFFBF#16 →
      exec (decode .unlocked dev w) s = exec (decode .unlocked dev w') s) ∧
    (w.special = false → w.notchsel = false → w.ch = 3#2 → w &&& 0xFFE0#16 = w' &&& 0xFFE0#16 →
      exec (decode .unlocked dev w) s = exec (decode .unlocked dev w') s)

/-- For every 16-bit number, `step` on the state that `withFetchWord` makes of any state runs the command that `decodeTableWord`
reads. (The mode and address in which a bare word is read are the model's choice, log 12.) -/
def Obligations.PlacedWordIsRun : Prop :=
  ∀ (s : State) (w : Nat), w < 65536 →
    ∃ i, decodeTableWord 16 w = some i ∧ step (s.withFetchWord 16 w) = exec i (s.withFetchWord 16 w)

/-! ### What the commands do -/

/-- The unlock magic while LOCKED is UNLOCK (while UNLOCKED it is reserved); UNLOCK on a powered device sets UNLOCKED, re-arms and
sleeps, emits Arm, and changes nothing else: no backoff follows (R101). -/
def Obligations.UnlockEntersUnlocked : Prop :=
  (∀ dev : DevAddr, decode .locked dev 0xD00D#16 = .unlock ∧ decode .unlocked dev 0xD00D#16 = .rsvd 0x500D#15) ∧
  ∀ (s : State) (v : Volatile), s.live = some v →
    exec .unlock s =
      .next { s with
        live := some { v with sync := .unlocked, rx := .armed, activity := .sleep }
        trace := s.trace ++ [.arm] }

/-- Any word but the unlock magic is LOCKED_DROP while LOCKED; LOCKED_DROP on a powered device, whatever the word, begins a backoff
and changes nothing else: the receiver is not re-armed (R102). -/
def Obligations.LockedDropBeginsBackoff : Prop :=
  (∀ (dev : DevAddr) (w : Word), w ≠ 0xD00D#16 → decode .locked dev w = .lockedDrop w) ∧
  ∀ (s : State) (v : Volatile) (w : Word), s.live = some v →
    exec (.lockedDrop w) s =
      .next { s with live := some { v with activity := .backoff }, trace := s.trace ++ [.backoffBegin] }

/-- All ones while UNLOCKED is RESET (while LOCKED it is dropped). RESET on a powered device: LOCKED; the eight lines written to
their power-on values in the order notch0 to notch2, data, clk, en0 to en2; the three bytes read into the settings; the settings
driven to channels 0, 1, 2, after which the notch lines hold their power-on values, the clock is LOW, the data line holds bit 0 of
setting 2 and no enable is ASSERTED; re-arm. The record, the flag and the mailbox are as they were. (R103, R104, R150; the order
of the parts, the write list and the line order are the spec's own decisions D11, D12 and D28, logs 14, 15 and 17.) -/
def Obligations.ResetReloadsAndDrives : Prop :=
  (∀ dev : DevAddr, decode .unlocked dev 0xFFFF#16 = .reset ∧ decode .locked dev 0xFFFF#16 = .lockedDrop 0xFFFF#16) ∧
  ∀ (s : State) (v : Volatile), s.live = some v →
    exec .reset s =
      .next { s with
        live := some { v with
          sync := .locked
          att := ⟨s.nvByte .l0, s.nvByte .l1, s.nvByte .l2⟩
          pins :=
            { notch := s.params.gpioPoweron.notch
              data := if (s.nvByte .l2).getLsbD 0 then .high else .low
              clk := .low
              en := ⟨.deasserted, .deasserted, .deasserted⟩ }
          rx := .armed
          activity := .sleep }
        trace := s.trace ++
          [ .line (.notch .l0 s.params.gpioPoweron.notch.l0), .line (.notch .l1 s.params.gpioPoweron.notch.l1),
            .line (.notch .l2 s.params.gpioPoweron.notch.l2), .line (.data s.params.gpioPoweron.data),
            .line (.clk s.params.gpioPoweron.clk), .line (.en .l0 s.params.gpioPoweron.en.l0.toSwitch),
            .line (.en .l1 s.params.gpioPoweron.en.l1.toSwitch), .line (.en .l2 s.params.gpioPoweron.en.l2.toSwitch),
            .nvRead .l0 (s.nvByte .l0), .nvRead .l1 (s.nvByte .l1), .nvRead .l2 (s.nvByte .l2) ] ++
          lineEvents (transferWrites .l0 (s.nvByte .l0)) ++ lineEvents (transferWrites .l1 (s.nvByte .l1)) ++
          lineEvents (transferWrites .l2 (s.nvByte .l2)) ++ [.arm] }

/-- While UNLOCKED a word with bit 15 set, other than all ones, is RSVD on every device, and a word with bit 15 clear that does not
match is FOREIGN; RSVD and FOREIGN on a powered device do nothing but re-arm, whatever bits they carry (R122, R123). -/
def Obligations.IgnoredCommandsOnlyRearm : Prop :=
  (∀ (dev : DevAddr) (w : Word), w.getLsbD 15 = true → w ≠ 0xFFFF#16 →
    decode .unlocked dev w = .rsvd (w.extractLsb' 0 15)) ∧
  (∀ (dev : DevAddr) (w : Word), w.getLsbD 15 = false → w.extractLsb' 8 7 &&& dev = 0#7 →
    decode .unlocked dev w = .foreign (w.extractLsb' 8 7) (w.extractLsb' 0 8)) ∧
  ∀ (s : State) (v : Volatile) (x : BitVec 15) (a : BitVec 7) (p : BitVec 8), s.live = some v →
    exec (.rsvd x) s =
      .next { s with live := some { v with rx := .armed, activity := .sleep }, trace := s.trace ++ [.arm] } ∧
    exec (.foreign a p) s =
      .next { s with live := some { v with rx := .armed, activity := .sleep }, trace := s.trace ++ [.arm] }

/-- While UNLOCKED a matching word with bit 15 clear and bit 7 set is NOTCH. NOTCH on a powered device: each notch whose select
bit is set takes its value bit, set is DEASSERTED and clear is ASSERTED, with one event each in the order 0, 1, 2; the others keep
their level, with no event; re-arm; nothing else changes (R124, R140, R141; the order 0, 1, 2 is the spec's own decision D13 in
R142, log 16.) -/
def Obligations.NotchDrivesSelectedLines : Prop :=
  (∀ (dev : DevAddr) (w : Word), w.getLsbD 15 = false → w.extractLsb' 8 7 &&& dev ≠ 0#7 → w.getLsbD 7 = true →
    decode .unlocked dev w = .notch (w.extractLsb' 8 7) (w.extractLsb' 6 1) (w.extractLsb' 3 3) (w.extractLsb' 0 3)) ∧
  ∀ (s : State) (v : Volatile) (a : BitVec 7) (x : BitVec 1) (sel val : BitVec 3), s.live = some v →
    ∃ n : Triple Switch,
      exec (.notch a x sel val) s =
        .next { s with
          live := some { v with pins := { v.pins with notch := n }, rx := .armed, activity := .sleep }
          trace := s.trace ++
            (Lane.all.flatMap fun i =>
              if sel.getLsbD i.idx then [.line (.notch i (if val.getLsbD i.idx then .deasserted else .asserted))] else []) ++
            [.arm] } ∧
      ∀ i, n.get i =
        if sel.getLsbD i.idx then (if val.getLsbD i.idx then .deasserted else .asserted) else v.pins.notch.get i

/-- While UNLOCKED a matching word with bits 15 and 7 clear and 0, 1 or 2 in bits 6:5 is SET of that channel. SET on a powered
device: the setting becomes the zero-extended 5-bit field, and it is driven to the channel: enable asserted, eight bits most
significant first, each as clock low, data, clock high, clock low, enable deasserted; re-arm; nothing else changes. (R125; the
exact write list is the spec's own decision D12, log 15.) -/
def Obligations.SetStoresAndDrives : Prop :=
  (∀ (dev : DevAddr) (w : Word) (c : Lane), w.getLsbD 15 = false → w.extractLsb' 8 7 &&& dev ≠ 0#7 →
    w.getLsbD 7 = false → (w.extractLsb' 5 2).toNat = c.idx →
    decode .unlocked dev w = setCommand c (w.extractLsb' 8 7) (w.extractLsb' 0 5)) ∧
  ∀ (s : State) (v : Volatile) (c : Lane) (a : BitVec 7) (d : BitVec 5), s.live = some v →
    exec (setCommand c a d) s =
      .next { s with
        live := some { v with
          att := v.att.set c (d.setWidth 8)
          pins := { v.pins with
            data := if d.getLsbD 0 then .high else .low
            clk := .low
            en := v.pins.en.set c .deasserted }
          rx := .armed
          activity := .sleep }
        trace := s.trace ++ [.line (.en c .asserted)] ++
          ([7, 6, 5, 4, 3, 2, 1, 0].flatMap fun k =>
            [ .line (.clk .low), .line (.data (if (d.setWidth 8 : Byte).getLsbD k then .high else .low)),
              .line (.clk .high), .line (.clk .low) ]) ++
          [.line (.en c .deasserted), .arm] }

/-- While UNLOCKED a matching word with bits 15 and 7 clear and 3 in bits 6:5 is COMMIT. COMMIT on a powered device: the record is
erased, then the three settings are written in order, and its bytes are the settings; re-arm; no line, setting or mode changes
(R126, R170; the write order 0, 1, 2 is the spec's own decision D4, log 19.) -/
def Obligations.CommitWritesTheRecord : Prop :=
  (∀ (dev : DevAddr) (w : Word), w.getLsbD 15 = false → w.extractLsb' 8 7 &&& dev ≠ 0#7 → w.getLsbD 7 = false →
    w.extractLsb' 5 2 = 3#2 → decode .unlocked dev w = .commit (w.extractLsb' 8 7) (w.extractLsb' 0 5)) ∧
  ∀ (s : State) (v : Volatile) (a : BitVec 7) (x : BitVec 5), s.MemoryCanonical → s.live = some v →
    ∃ nv' : Memory,
      exec (.commit a x) s =
        .next { s with
          nv := nv'
          live := some { v with rx := .armed, activity := .sleep }
          trace := s.trace ++
            [.nvErase, .nvWrite .l0 v.att.l0, .nvWrite .l1 v.att.l1, .nvWrite .l2 v.att.l2, .arm] } ∧
      ∀ c, Memory.read s.params.nvInit nv' c = v.att.get c

/-- `Drive(c, v)` of any 8-bit value: the line writes with their events, and nothing else of the step in progress changes. (R150;
the exact write list is the spec's own decision D12, log 15.) -/
def Obligations.DriveShiftsTheByte : Prop :=
  ∀ (r : Running) (c : Lane) (v : Byte),
    r.drive c v =
      { r with
        pins := { r.pins with
          data := if v.getLsbD 0 then .high else .low
          clk := .low
          en := r.pins.en.set c .deasserted }
        trace := r.trace ++ [.line (.en c .asserted)] ++
          ([7, 6, 5, 4, 3, 2, 1, 0].flatMap fun k =>
            [ .line (.clk .low), .line (.data (if v.getLsbD k then .high else .low)), .line (.clk .high),
              .line (.clk .low) ]) ++
          [.line (.en c .deasserted)] }

/-- Every command faults on a device without power (the model's choice, log 31). -/
def Obligations.CommandsNeedPower : Prop :=
  ∀ (s : State) (i : Instr), s.live = none → exec i s = .fault .unpowered

/-- A write to the record with the store IDLE, so with no erase before it, faults; in the sequence erase, 0, 1, 2 each write is
taken (R53, R171, U12). (The position lives inside one step, log 29.) -/
def Obligations.WriteNeedsErase : Prop :=
  ∀ (r : Running) (i : Lane) (b : Byte),
    (r.store = .idle → r.memWrite i b = .error .nvNotErased) ∧
    ∃ r0 r1 r2, r.memErase.memWrite .l0 b = .ok r0 ∧ r0.memWrite .l1 b = .ok r1 ∧ r1.memWrite .l2 b = .ok r2 ∧
      r.memErase.store = .erased ∧ r0.store = .wrote .l0 ∧ r1.store = .wrote .l1 ∧ r2.store = .wrote .l2

/-! ### What the commands leave unchanged -/

/-- Frame of UNLOCK, LOCKED_DROP, RSVD and FOREIGN: no line, no setting, no byte of the record, no parameter, neither the mailbox
nor the flag changes; only UNLOCK writes the mode; LOCKED_DROP leaves the receiver (R101, R102, R122, R123). -/
def Obligations.FrameOfSilentCommands : Prop :=
  ∀ (s t : State) (v : Volatile) (i : Instr), s.live = some v →
    (i = .unlock ∨ (∃ w, i = .lockedDrop w) ∨ (∃ x, i = .rsvd x) ∨ ∃ a p, i = .foreign a p) →
    exec i s = .next t →
    t.params = s.params ∧ t.inputs = s.inputs ∧ (∀ c, t.nvByte c = s.nvByte c) ∧
    ∃ u, t.live = some u ∧ u.att = v.att ∧ u.pins = v.pins ∧ u.mbox = v.mbox ∧ u.ready = v.ready ∧
      (i ≠ .unlock → u.sync = v.sync) ∧ ((∃ w, i = .lockedDrop w) → u.rx = v.rx)

/-- Frame of NOTCH: the mode, every setting, every unselected notch, the attenuator bus, every byte of the record, the mailbox, the
flag and the parameters are unchanged (R124, R141, R143). -/
def Obligations.FrameOfNotch : Prop :=
  ∀ (s t : State) (v : Volatile) (a : BitVec 7) (x : BitVec 1) (sel val : BitVec 3), s.live = some v →
    exec (.notch a x sel val) s = .next t →
    t.params = s.params ∧ t.inputs = s.inputs ∧ (∀ c, t.nvByte c = s.nvByte c) ∧
    ∃ u, t.live = some u ∧ u.sync = v.sync ∧ u.att = v.att ∧ u.mbox = v.mbox ∧ u.ready = v.ready ∧
      u.pins.data = v.pins.data ∧ u.pins.clk = v.pins.clk ∧ u.pins.en = v.pins.en ∧
      ∀ i, sel.getLsbD i.idx = false → u.pins.notch.get i = v.pins.notch.get i

/-- Frame of SET: the mode, the other settings, the notch lines, the other enables, every byte of the record, the mailbox, the flag
and the parameters are unchanged (R125, R153). -/
def Obligations.FrameOfSet : Prop :=
  ∀ (s t : State) (v : Volatile) (c : Lane) (a : BitVec 7) (d : BitVec 5), s.live = some v →
    exec (setCommand c a d) s = .next t →
    t.params = s.params ∧ t.inputs = s.inputs ∧ (∀ e, t.nvByte e = s.nvByte e) ∧
    ∃ u, t.live = some u ∧ u.sync = v.sync ∧ u.mbox = v.mbox ∧ u.ready = v.ready ∧
      u.pins.notch = v.pins.notch ∧
      ∀ e, e ≠ c → u.att.get e = v.att.get e ∧ u.pins.en.get e = v.pins.en.get e

/-- Frame of COMMIT: the mode, every setting, every line, the mailbox, the flag and the parameters are unchanged; the three bytes of
the record, all that memory has, are the ones it stores to (R126, R176). -/
def Obligations.FrameOfCommit : Prop :=
  ∀ (s t : State) (v : Volatile) (a : BitVec 7) (x : BitVec 5), s.live = some v →
    exec (.commit a x) s = .next t →
    t.params = s.params ∧ t.inputs = s.inputs ∧
    ∃ u, t.live = some u ∧ u.sync = v.sync ∧ u.att = v.att ∧ u.pins = v.pins ∧ u.mbox = v.mbox ∧ u.ready = v.ready

/-- Frame of RESET: every byte of the record, the mailbox, the flag and the parameters are unchanged (R103, R233). -/
def Obligations.FrameOfReset : Prop :=
  ∀ (s t : State) (v : Volatile), s.live = some v → exec .reset s = .next t →
    t.params = s.params ∧ t.inputs = s.inputs ∧ (∀ c, t.nvByte c = s.nvByte c) ∧
    ∃ u, t.live = some u ∧ u.mbox = v.mbox ∧ u.ready = v.ready

/-! ### The steps of the agents -/

/-- In EXEC(w), with nothing happening outside, `step` is `exec` of the command that the mode, the device address and the word
decode to, at the same state less the choice that was taken (R74, R100). (What nothing happening outside means is the model's
choice, logs 1 and 2.) -/
def Obligations.StepRunsTheDecodedCommand : Prop :=
  ∀ (s : State) (v : Volatile) (w : Word) (rest : List Input), s.live = some v → v.activity = .exec w →
    s.CoreMoves rest →
    step s = exec (decode v.sync s.params.devAddr w) { s with inputs := rest }

/-- A powered device whose receiver is ARMED captures the word on the link: mailbox, flag and receiver change together, Deliver is
emitted, and nothing else changes (R202). -/
def Obligations.ReceiverCapturesTheWord : Prop :=
  ∀ (s : State) (v : Volatile) (w : Word) (rest : List Input), s.live = some v → v.rx = .armed →
    s.inputs = .word w :: rest →
    step s =
      .next { s with
        inputs := rest
        live := some { v with mbox := some w, ready := true, rx := .held }
        trace := s.trace ++ [.deliver w] }

/-- A word sent to a device that is HELD or OFF is not delivered: nothing changes (R205). -/
def Obligations.WordToHeldOrOffDeviceIsLost : Prop :=
  ∀ (s : State) (w : Word) (rest : List Input),
    (s.live = none ∨ ∃ v, s.live = some v ∧ v.rx = .held) → s.inputs = .word w :: rest →
    step s = .next { s with inputs := rest }

/-- The fetch step: in SLEEP with the flag set the core takes the word, clears the flag and enters EXEC(w) (R203). -/
def Obligations.FetchTakesTheMailbox : Prop :=
  ∀ (s : State) (v : Volatile) (w : Word) (rest : List Input), s.live = some v → v.activity = .sleep →
    v.ready = true → v.mbox = some w → s.CoreMoves rest →
    step s =
      .next { s with
        inputs := rest
        live := some { v with ready := false, activity := .exec w }
        trace := s.trace ++ [.fetch w] }

/-- A fetch from a mailbox that holds no value faults by name (R29). -/
def Obligations.FetchOfNoValueFaults : Prop :=
  ∀ (s : State) (v : Volatile) (rest : List Input), s.live = some v → v.activity = .sleep → v.ready = true →
    v.mbox = none → s.CoreMoves rest → step s = .fault .mailboxEmpty

/-- The backoff end: BackoffEnd, then the re-arm (R106). -/
def Obligations.BackoffEndRearms : Prop :=
  ∀ (s : State) (v : Volatile) (rest : List Input), s.live = some v → v.activity = .backoff → s.CoreMoves rest →
    step s =
      .next { s with
        inputs := rest
        live := some { v with rx := .armed, activity := .sleep }
        trace := s.trace ++ [.backoffEnd, .arm] }

/-- A core with no step, asleep with nothing pending or without power, stays as it is while nothing happens outside (R32, R215; that
`step` then answers the same state is the model's choice, log 2). -/
def Obligations.IdleDeviceStaysAsItIs : Prop :=
  ∀ (s : State) (rest : List Input), s.CoreMoves rest →
    (s.live = none ∨ ∃ v, s.live = some v ∧ v.activity = .sleep ∧ v.ready = false) →
    step s = .next { s with inputs := rest }

/-- Power-on of a device in OFF: LOCKED, flag clear, mailbox empty, lines restored, record loaded and driven, receiver ARMED,
SLEEP, with the events in the order of the rule (R231). (That boot drives, and the lists and orders of its writes, are the spec's
own decisions D10, D12 and D28, logs 13, 15 and 17; K2 calls the driving contested.) -/
def Obligations.PowerOnBoots : Prop :=
  ∀ (s : State) (rest : List Input), s.live = none → s.inputs = .powerOn :: rest →
    step s =
      .next { s with
        inputs := rest
        live := some
          { sync := .locked
            att := ⟨s.nvByte .l0, s.nvByte .l1, s.nvByte .l2⟩
            pins :=
              { notch := s.params.gpioPoweron.notch
                data := if (s.nvByte .l2).getLsbD 0 then .high else .low
                clk := .low
                en := ⟨.deasserted, .deasserted, .deasserted⟩ }
            mbox := none
            ready := false
            rx := .armed
            activity := .sleep }
        trace := s.trace ++ [.powerOn] ++ lineEvents (gpioDefaultWrites s.params.gpioPoweron) ++
          [.nvRead .l0 (s.nvByte .l0), .nvRead .l1 (s.nvByte .l1), .nvRead .l2 (s.nvByte .l2)] ++
          lineEvents (transferWrites .l0 (s.nvByte .l0)) ++ lineEvents (transferWrites .l1 (s.nvByte .l1)) ++
          lineEvents (transferWrites .l2 (s.nvByte .l2)) ++ [.arm] }

/-- A power loss between two steps takes every volatile element and keeps the record, the parameters and the trace; a power loss
that cuts a power-on short after `k` events leaves the device OFF with those events in the trace (R232). (That the step cut short
is the enabled one is the model's reading, log 21.) -/
def Obligations.PowerLossOutsideCoreSteps : Prop :=
  ∀ (s : State) (rest : List Input),
    (∀ v, s.live = some v → s.inputs = .powerLoss :: rest →
      step s = .next { s with inputs := rest, live := none, trace := s.trace ++ [.powerLoss] }) ∧
    (∀ k draw, s.live = none → s.inputs = .powerLossIn k draw :: rest →
      step s =
        .next { s with
          inputs := rest
          trace := s.trace ++ (bootEvents s.params.gpioPoweron s.nvRecord).take k ++ [.powerLoss] })

/-- A power loss inside a core step that is no COMMIT: the step emits the first `k` of its events and writes nothing; the record
is as it was (R232). (That the step cut short is the enabled one is the model's reading, log 21.) -/
def Obligations.PowerLossCutsACoreStep : Prop :=
  ∀ (s t : State) (v : Volatile) (k : Nat) (draw : Triple Byte) (rest : List Input), s.live = some v →
    s.inputs = .powerLossIn k draw :: rest →
    (∀ w a x, v.activity = .exec w → decode v.sync s.params.devAddr w ≠ .commit a x) →
    State.coreStep { s with inputs := rest } = .next t →
    step s =
      .next { s with
        inputs := rest, live := none, trace := s.trace ++ (newEvents s t).take k ++ [.powerLoss] }

/-- A power loss inside a COMMIT step: whatever the cut point, every byte of the record is the free value drawn for it, and the
next boot loads those bytes as they are; the events are the first `k` of the commit's (R174, R232). (That the drawn bytes come
with the choice of the environment is the model's choice, log 20; that the step cut short is the enabled one is its reading, log
21.) -/
def Obligations.PowerLossInCommitDrawsTheRecord : Prop :=
  ∀ (s : State) (v : Volatile) (w : Word) (a : BitVec 7) (x : BitVec 5) (k : Nat) (draw : Triple Byte)
    (rest : List Input), s.MemoryCanonical → s.live = some v → v.activity = .exec w →
    decode v.sync s.params.devAddr w = .commit a x → s.inputs = .powerLossIn k draw :: rest →
    ∃ nv' : Memory,
      step s =
        .next { s with
          inputs := rest
          nv := nv'
          live := none
          trace := s.trace ++
            [.nvErase, .nvWrite .l0 v.att.l0, .nvWrite .l1 v.att.l1, .nvWrite .l2 v.att.l2, .arm].take k ++
            [.powerLoss] } ∧
      (∀ c, Memory.read s.params.nvInit nv' c = draw.get c) ∧
      ∃ u, State.live (State.powerOn { s with nv := nv', live := none }) = some u ∧ u.att = draw

/-! ### Reset -/

/-- The table of R35: the state after reset, what survives a power loss, and the state before the first power-on. (The values of
the parameters are unknown constants, logs 6 to 11.) (That reset is the first power-on is the model's reading, logs 5 and 34; that
boot drives, its write list and the clock LOW after it are the spec's own decisions D10 and D12 and its choice in C6, logs 13, 15
and 27.) -/
def Obligations.ResetStateIsTheTable : Prop :=
  (∃ v, State.reset.live = some v ∧ v.sync = .locked ∧ (∀ c, v.att.get c = State.reset.nvByte c) ∧
    v.pins.notch = State.reset.params.gpioPoweron.notch ∧ (∀ c, v.pins.en.get c = .deasserted) ∧
    v.pins.clk = .low ∧ v.pins.data = (if (v.att.get .l2).getLsbD 0 then .high else .low) ∧
    v.mbox = none ∧ v.ready = false ∧ v.rx = .armed ∧ State.reset.phase = .sleep) ∧
  (∀ c, State.reset.nvByte c = State.reset.params.nvInit.get c) ∧
  State.reset.trace = bootEvents State.reset.params.gpioPoweron State.reset.params.nvInit ∧
  (∀ (s : State) (v : Volatile), s.live = some v →
    s.powerLoss.live = none ∧ s.powerLoss.phase = .off ∧ (∀ c, s.powerLoss.nvByte c = s.nvByte c) ∧
    s.powerLoss.params = s.params ∧ s.powerLoss.trace = s.trace ++ [.powerLoss]) ∧
  (∀ p : Params, (State.factory p).phase = .off ∧ (∀ c, (State.factory p).nvByte c = p.nvInit.get c) ∧
    (State.factory p).live = none ∧ (State.factory p).trace = [])

/-- The reset state is what the first power-on makes of the device before it (R230, R231, R35). (The state before it is
`State.factory`, logs 5 and 34.) -/
def Obligations.ResetIsTheFirstBoot : Prop :=
  State.reset = (State.factory Config.params).powerOn

/-- The invariants stated below hold at reset (R34, R108, R153, R30; the canonical form of the record). -/
def Obligations.InvariantsHoldAtReset : Prop :=
  State.reset.ContextsAgree ∧ State.reset.MailboxFilled ∧ State.reset.LockedSettled ∧ State.reset.MemoryCanonical ∧
    State.reset.EnablesExclusive

/-! ### What every step keeps -/

/-- Every step keeps the three invariants between the core, the receiver and the flag (R34). -/
def Obligations.ContextsAgreeKept : Prop :=
  ∀ s t, s.ContextsAgree → step s = .next t → t.ContextsAgree

/-- Every step keeps what is said of a LOCKED device: settings as the record, lines as boot and RESET leave them (R108). (The line
levels rest on the spec's own decisions D10 and D12 and on C6, logs 13, 15 and 27.) -/
def Obligations.LockedSettledKept : Prop :=
  ∀ s t, s.LockedSettled → step s = .next t → t.LockedSettled

/-- Every step keeps the canonical form of the record (the model's own form of memory; R51, R52). -/
def Obligations.MemoryCanonicalKept : Prop :=
  ∀ s t, s.MemoryCanonical → step s = .next t → t.MemoryCanonical

/-- Every step keeps the agreement of the lines with the trace: the trace shows every line write, and a power loss leaves every
line undriven (R33, R232). (A power loss has no line event of its own, log 33.) -/
def Obligations.TraceShowsLinesKept : Prop :=
  ∀ s t, s.TraceShowsLines → step s = .next t → t.TraceShowsLines

/-- Every step, cut short or not, keeps that at most one enable line is ASSERTED at any point of the trace, and none between steps
(R153). (That no power-on value asserts an enable is the spec's own decision D8, log 9.) -/
def Obligations.EnablesExclusiveKept : Prop :=
  ∀ s t, s.EnablesExclusive → step s = .next t → t.EnablesExclusive

/-- No step faults or is refused, whatever the environment does, once the mailbox holds a word whenever the flag is set; and every
step keeps that (R29, R200). -/
def Obligations.StepNeverStops : Prop :=
  ∀ s, s.MailboxFilled → ∃ t, step s = .next t ∧ t.MailboxFilled

/-- Every step keeps the settings and the record in 0 to 31, unless an interrupted commit leaves another byte (R24). -/
def Obligations.SettingsInRangeKept : Prop :=
  ∀ s t, s.MemoryCanonical → (∀ x xs, s.inputs = x :: xs → x.drawsInRange) → s.SettingsInRange →
    step s = .next t → t.SettingsInRange

/-- No step writes the device address or any other parameter, and none clears or rewrites the trace (R28, R33). -/
def Obligations.ParametersAndPastAreKept : Prop :=
  ∀ s t, step s = .next t → t.params = s.params ∧ ∃ es, t.trace = s.trace ++ es

/-- While a device stays powered its mode changes only by UNLOCK, to UNLOCKED, and by RESET, to LOCKED (R22, R212). -/
def Obligations.ModeChangesOnlyByUnlockAndReset : Prop :=
  ∀ (s t : State) (v u : Volatile), step s = .next t → s.live = some v → t.live = some u → u.sync ≠ v.sync →
    (v.activity = .exec 0xD00D#16 ∧ v.sync = .locked) ∨ (v.activity = .exec 0xFFFF#16 ∧ v.sync = .unlocked)

/-- A byte of the record changes only in a step that is, or cuts short, a COMMIT of an unlocked device (R25, R176). -/
def Obligations.RecordChangesOnlyByCommit : Prop :=
  ∀ (s t : State) (c : Lane), step s = .next t → t.nvByte c ≠ s.nvByte c →
    ∃ v w a x, s.live = some v ∧ v.sync = .unlocked ∧ v.activity = .exec w ∧
      decode v.sync s.params.devAddr w = .commit a x

/-- At most one of the receiver, fetch, command and backoff-end steps is enabled on a powered device, said of the model's own steps: the
receiver step does something exactly in SLEEP, ARMED, with the flag clear, and the core then has no step; the core has a step
exactly in SLEEP with the flag set, in EXEC(w) and in BACKOFF, that step is the fetch, the command or the backoff end, and no word
is then delivered (R206). -/
def Obligations.AtMostOneStepEnabled : Prop :=
  ∀ (s : State) (v : Volatile), s.ContextsAgree → s.live = some v →
    (∀ w, s.receive w ≠ s ↔ v.activity = .sleep ∧ v.rx = .armed ∧ v.ready = false) ∧
    (v.rx = .armed → s.coreStep = .next s) ∧
    (s.coreStep ≠ .next s ↔
      (v.activity = .sleep ∧ v.ready = true) ∨ (∃ w, v.activity = .exec w) ∨ v.activity = .backoff) ∧
    (s.coreStep ≠ .next s → ∀ w, s.receive w = s) ∧
    (v.activity = .sleep → v.ready = true → s.coreStep = s.fetch v) ∧
    (∀ w, v.activity = .exec w → s.coreStep = exec (decode v.sync s.params.devAddr w) s) ∧
    (v.activity = .backoff → s.coreStep = .next (s.backoffEnd v))

/-! ### Properties the source states -/

/-- Locked isolation: a LOCKED device executing any word but the unlock magic stays LOCKED, writes no line, setting or byte of the
record, and emits nothing but the beginning of a backoff (R102, R108). -/
def Obligations.LockedIsolation : Prop :=
  ∀ (s : State) (v : Volatile) (w : Word) (rest : List Input), s.live = some v → v.sync = .locked →
    v.activity = .exec w → w ≠ 0xD00D#16 → s.CoreMoves rest →
    ∃ t u, step s = .next t ∧ t.live = some u ∧ u.sync = .locked ∧ u.pins = v.pins ∧ u.att = v.att ∧ t.nv = s.nv ∧
      newEvents s t = [.backoffBegin]

/-- Address isolation: an UNLOCKED device executing a word with bit 15 clear whose address field has no bit in common with its own
address writes no line, setting or byte of the record, and emits nothing but the re-arm (R121, R123). -/
def Obligations.AddressIsolation : Prop :=
  ∀ (s : State) (v : Volatile) (w : Word) (rest : List Input), s.live = some v → v.sync = .unlocked →
    v.activity = .exec w → w.getLsbD 15 = false → w.extractLsb' 8 7 &&& s.params.devAddr = 0#7 → s.CoreMoves rest →
    ∃ t u, step s = .next t ∧ t.live = some u ∧ u.sync = .unlocked ∧ u.pins = v.pins ∧ u.att = v.att ∧ t.nv = s.nv ∧
      newEvents s t = [.arm]

/-- What a transfer fixes, from whatever lines: eight rising clock edges while the channel is enabled, at which the data line
holds the bits of the value, most significant first; the enable is written first and last and not between; the clock ends LOW and
the data line at bit 0 (R151). (The clock LOW at the end is the spec's choice in C6, log 27.) -/
def Obligations.TransferShowsTheBits : Prop :=
  ∀ (p : Pins) (c : Lane) (v : Byte),
    risingSamples c p (transferWrites c v) =
      [7, 6, 5, 4, 3, 2, 1, 0].map (fun k => if v.getLsbD k then Wire.high else Wire.low) ∧
    (∃ ws, transferWrites c v = .en c .asserted :: (ws ++ [.en c .deasserted]) ∧ ∀ e x, LineWrite.en e x ∉ ws) ∧
    (p.writeAll (transferWrites c v)).clk = .low ∧
    (p.writeAll (transferWrites c v)).data = (if v.getLsbD 0 then .high else .low)

/-- The settings of a completed COMMIT come back at a RESET, and at a boot after a power loss (R65). -/
def Obligations.CommitThenLoadRestores : Prop :=
  ∀ (s : State) (v : Volatile) (a : BitVec 7) (x : BitVec 5), s.MemoryCanonical → s.live = some v →
    ∃ t, exec (.commit a x) s = .next t ∧
      (∃ u w, exec .reset t = .next u ∧ u.live = some w ∧ w.att = v.att) ∧
      ∃ w, t.powerLoss.powerOn.live = some w ∧ w.att = v.att

/-- SET, COMMIT, RESET: the channel holds the value that was set, zero-extended, and the other channels what they held (R177). -/
def Obligations.SetCommitResetRoundTrip : Prop :=
  ∀ (s : State) (v : Volatile) (c : Lane) (a a' : BitVec 7) (d x : BitVec 5), s.MemoryCanonical → s.live = some v →
    ∃ t1 t2 t3 w, exec (setCommand c a d) s = .next t1 ∧ exec (.commit a' x) t1 = .next t2 ∧
      exec .reset t2 = .next t3 ∧ t3.live = some w ∧ w.sync = .locked ∧ (w.att.get c).toNat = d.toNat ∧
      ∀ e, e ≠ c → w.att.get e = v.att.get e

/-- The same SET twice gives the same settings and the same events each time (R129). -/
def Obligations.SetTwiceIsIdempotent : Prop :=
  ∀ (s : State) (v : Volatile) (c : Lane) (a : BitVec 7) (d : BitVec 5), s.live = some v →
    ∃ t u w x, exec (setCommand c a d) s = .next t ∧ exec (setCommand c a d) t = .next u ∧ t.live = some w ∧
      u.live = some x ∧ x.att = w.att ∧ newEvents t u = newEvents s t

/-- A word delivered to a sleeping, ARMED device is the word the next core step fetches, once: the flag is then clear (R63). -/
def Obligations.DeliveredWordIsFetched : Prop :=
  ∀ (s : State) (v : Volatile) (w : Word) (rest : List Input), s.live = some v → v.activity = .sleep →
    v.rx = .armed → s.inputs = .word w :: .run :: rest →
    ∃ t u x, step s = .next t ∧ step t = .next u ∧ u.live = some x ∧ u.phase = .exec w ∧ x.ready = false ∧
      newEvents s u = [.deliver w, .fetch w]

/-- The four words of RESYNC, each delivered whole to a quiescent device and followed by the core's steps for it, leave the device
asleep and UNLOCKED, whatever its mode was (R82, R107, R235). (The sixteen choices are named
one by one, log 1; the third core step of some words is the stutter of log 2.) -/
def Obligations.ResyncReachesUnlocked : Prop :=
  ∀ (s : State), s.Quiescent → s.inputs = (resync.flatMap fun w => [.word w, .run, .run, .run]) →
    ∃ t v, runSteps 16 s = .next t ∧ t.Quiescent ∧ t.live = some v ∧ v.sync = .unlocked

/-- RESET and power-on of a device with the same record and parameters leave the same mode, settings, lines, receiver and phase;
only RESET leaves the flag and the mailbox (R233). -/
def Obligations.ResetAndPowerOnAgree : Prop :=
  ∀ (s s' : State) (v : Volatile), s.live = some v → s'.live = none → s'.params = s.params → s'.nv = s.nv →
    ∃ t u w, exec .reset s = .next t ∧ t.live = some u ∧ s'.powerOn.live = some w ∧
      u.sync = w.sync ∧ u.att = w.att ∧ u.pins = w.pins ∧ u.rx = w.rx ∧ u.activity = w.activity ∧
      u.ready = v.ready ∧ u.mbox = v.mbox ∧ t.nv = s.nv

/-- A step of one device of a fleet changes no other device; a word the host sends reaches exactly the devices that are powered and
ARMED (R214). -/
def Obligations.FleetDevicesAreIndependent : Prop :=
  ∀ (fleet fleet' : List State) (n m : Nat) (w : Word),
    (fleetStep fleet n = .next fleet' → m ≠ n → fleet'[m]? = fleet[m]?) ∧
    (∀ s, fleet[m]? = some s →
      ((∃ v, s.live = some v ∧ v.rx = .armed) ↔
        ∃ t, (fleetHears w fleet)[m]? = some t ∧ t.trace = s.trace ++ [.deliver w]) ∧
      ((¬ ∃ v, s.live = some v ∧ v.rx = .armed) → (fleetHears w fleet)[m]? = some s))
end

