-- ==== Sys2Proof/Laws/Decode.lean ====
section
/-! SUPPORT. What the decode of a word says of the word and of the mode (`30_encoding.md` R74), so that no proof unfolds it. -/

namespace Sys2Proof

/-- The channel field has four values. -/
theorem Word.ch_cases (w : Word) : w.ch = 0#2 ∨ w.ch = 1#2 ∨ w.ch = 2#2 ∨ w.ch = 3#2 := by
  generalize w.ch = k
  revert k
  decide

/-- The channel field bit by bit. -/
theorem Word.ch_bits {w : Word} {k : BitVec 2} (h : w.ch = k) :
    w.getLsbD 5 = k.getLsbD 0 ∧ w.getLsbD 6 = k.getLsbD 1 := by
  subst h
  simp [Word.ch]

/-- Only the magic word, while LOCKED, is UNLOCK. -/
theorem decode_eq_unlock {sync : Sync} {dev : DevAddr} {w : Word} (h : decode sync dev w = .unlock) :
    sync = .locked ∧ w = unlockMagic := by
  unfold decode decodePayload at h
  revert h
  (repeat' split) <;> simp_all

/-- Only the magic word, while UNLOCKED, is RESET. -/
theorem decode_eq_reset {sync : Sync} {dev : DevAddr} {w : Word} (h : decode sync dev w = .reset) :
    sync = .unlocked ∧ w = resetMagic := by
  unfold decode decodePayload at h
  revert h
  (repeat' split) <;> simp_all

/-- A COMMIT is decoded while UNLOCKED only. -/
theorem decode_eq_commit {sync : Sync} {dev : DevAddr} {w : Word} {a : BitVec 7} {x : BitVec 5}
    (h : decode sync dev w = .commit a x) : sync = .unlocked := by
  cases sync with
  | locked =>
    simp only [decode] at h
    split at h <;> cases h
  | unlocked => rfl

/-- While LOCKED there are two commands. -/
theorem decode_locked (dev : DevAddr) (w : Word) :
    (decode .locked dev w = .unlock ∧ w = unlockMagic) ∨ (decode .locked dev w = .lockedDrop w ∧ w ≠ unlockMagic) := by
  simp only [decode]
  split
  · next h => exact .inl ⟨rfl, h⟩
  · next h => exact .inr ⟨rfl, h⟩

/-- While UNLOCKED no word is a command of the LOCKED mode. -/
theorem decode_unlocked_ne (dev : DevAddr) (w : Word) :
    decode .unlocked dev w ≠ .unlock ∧ ∀ x, decode .unlocked dev w ≠ .lockedDrop x := by
  unfold decode decodePayload
  dsimp only
  (repeat' split) <;> simp

end Sys2Proof
end

