-- ==== Sys2Proof/Laws/Memory.lean ====
section
/-! SUPPORT. The laws of indexed triples and of the NV record: a read after a write, and the canonical form. -/

namespace Sys2Proof

@[simp] theorem Triple.get_const {α : Type} (x : α) (i : Lane) : (Triple.const x).get i = x := by
  cases i <;> rfl

@[simp] theorem Triple.get_set_self {α : Type} (t : Triple α) (i : Lane) (x : α) : (t.set i x).get i = x := by
  cases i <;> rfl

theorem Triple.get_set_of_ne {α : Type} (t : Triple α) {i j : Lane} (x : α) (h : i ≠ j) :
    (t.set i x).get j = t.get j := by
  cases i <;> cases j <;> first | rfl | exact absurd rfl h

theorem Triple.get_set {α : Type} (t : Triple α) (i j : Lane) (x : α) :
    (t.set i x).get j = if i = j then x else t.get j := by
  split
  · next h => subst h; simp
  · next h => exact t.get_set_of_ne x h

theorem Triple.ext_get {α : Type} {t u : Triple α} (h : ∀ i, t.get i = u.get i) : t = u := by
  cases t; cases u
  have h0 := h .l0
  have h1 := h .l1
  have h2 := h .l2
  simp only [Triple.get] at h0 h1 h2
  subst h0 h1 h2
  rfl

theorem Triple.set_all {α : Type} (t u : Triple α) :
    ((t.set .l0 (u.get .l0)).set .l1 (u.get .l1)).set .l2 (u.get .l2) = u := rfl

theorem Lane.mem_all (i : Lane) : i ∈ Lane.all := by
  cases i <;> decide

theorem Lane.idx_injective {i j : Lane} (h : i.idx = j.idx) : i = j := by
  cases i <;> cases j <;> first | rfl | (exact absurd h (by decide))

end Sys2Proof

namespace Sys2Proof.Machine

@[simp] theorem Lane.ofIdx_idx (c : Lane) : Lane.ofIdx c.idx = some c := by
  cases c <;> rfl

theorem Lane.idx_of_ofIdx {k : Nat} {c : Lane} (h : Lane.ofIdx k = some c) : k = c.idx := by
  match k, h with
  | 0, h => cases h; rfl
  | 1, h => cases h; rfl
  | 2, h => cases h; rfl
  | n + 3, h => cases h

theorem Memory.read_cons (init : Triple Byte) (k : Nat) (v : Byte) (rest : Memory) (c : Lane) :
    Memory.read init ((k, v) :: rest) c = if k = c.idx then v else Memory.read init rest c := rfl

/-- An offset that every cell lies above is not listed. -/
theorem Memory.read_of_above (init : Triple Byte) (c : Lane) :
    ∀ m : Memory, (∀ x ∈ m, c.idx < x.1) → Memory.read init m c = init.get c
  | [], _ => rfl
  | (k, v) :: rest, h => by
    have hk : c.idx < k := h (k, v) (by simp)
    rw [Memory.read_cons, if_neg (by omega)]
    exact Memory.read_of_above init c rest fun x hx => h x (by simp [hx])

theorem Memory.wf_cons {init : Triple Byte} {x : Host.Cell} {rest : Memory} :
    Memory.wf init (x :: rest) = true ↔
      Memory.cellOk init x = true ∧ (∀ y ∈ rest, x.1 < y.1) ∧ Memory.wf init rest = true := by
  simp [Memory.wf, and_assoc]

/-- Putting a cell for `c` before cells that all lie above it: what it reads as. -/
theorem Memory.read_cell_append (init : Triple Byte) (c d : Lane) (v : Byte) (m : Memory)
    (h : ∀ x ∈ m, c.idx < x.1) :
    Memory.read init (Memory.cell init c v ++ m) d = if c = d then v else Memory.read init m d := by
  unfold Memory.cell
  split
  · next hv =>
    split
    · next hcd => subst hcd; rw [List.nil_append, Memory.read_of_above init c m h, hv]
    · rfl
  · rw [List.singleton_append, Memory.read_cons]
    by_cases hcd : c = d
    · simp [hcd]
    · rw [if_neg hcd, if_neg fun h => hcd (Lane.idx_injective h)]

/-- A read after a write, in a canonical record: the byte written at that offset, every other byte as it was. -/
theorem Memory.read_write (init : Triple Byte) (c d : Lane) (v : Byte) :
    ∀ m : Memory, Memory.wf init m = true →
      Memory.read init (Memory.write init m c v) d = if c = d then v else Memory.read init m d
  | [], _ => by
    simpa [Memory.write] using Memory.read_cell_append init c d v [] (by simp)
  | (k, u) :: rest, h => by
    obtain ⟨-, hlt, hrest⟩ := Memory.wf_cons.1 h
    unfold Memory.write
    split
    · next hk =>
      refine Memory.read_cell_append init c d v _ fun x hx => ?_
      rcases List.mem_cons.1 hx with rfl | hx
      · exact hk
      · exact Nat.lt_trans hk (hlt x hx)
    · split
      · next hk =>
        subst hk
        rw [Memory.read_cell_append init c d v rest hlt, Memory.read_cons]
        by_cases hcd : c = d
        · simp [hcd]
        · rw [if_neg hcd, if_neg hcd, if_neg fun h => hcd (Lane.idx_injective h)]
      · next hk =>
        rw [Memory.read_cons, Memory.read_cons, Memory.read_write init c d v rest hrest]
        by_cases hcd : c = d
        · subst hcd; simp [hk]
        · simp [hcd]

/-- The cells a write leaves: those of the record, and possibly one for `c`. -/
theorem Memory.mem_write (init : Triple Byte) (c : Lane) (v : Byte) (x : Host.Cell) :
    ∀ m : Memory, x ∈ Memory.write init m c v → x ∈ m ∨ x.1 = c.idx
  | [], h => by
    simp only [Memory.write, Memory.cell] at h
    split at h <;> simp_all
  | (k, u) :: rest, h => by
    unfold Memory.write Memory.cell at h
    split at h
    · split at h
      · exact .inl (by simpa using h)
      · rcases List.mem_append.1 h with h | h
        · exact .inr (by simp_all)
        · exact .inl h
    · split at h
      · rcases List.mem_append.1 h with h | h
        · split at h <;> simp_all
        · exact .inl (List.mem_cons_of_mem _ h)
      · rcases List.mem_cons.1 h with h | h
        · exact .inl (by simp [h])
        · rcases Memory.mem_write init c v x rest h with h | h
          · exact .inl (List.mem_cons_of_mem _ h)
          · exact .inr h

/-- A cell in front of higher cells keeps the canonical form. -/
theorem Memory.wf_cell_append (init : Triple Byte) (c : Lane) (v : Byte) (m : Memory)
    (h : ∀ x ∈ m, c.idx < x.1) (hm : Memory.wf init m = true) :
    Memory.wf init (Memory.cell init c v ++ m) = true := by
  unfold Memory.cell
  split
  · simpa using hm
  · next hv => exact Memory.wf_cons.2 ⟨by simp [Memory.cellOk, hv], h, hm⟩

/-- A write keeps the canonical form. -/
theorem Memory.wf_write (init : Triple Byte) (c : Lane) (v : Byte) :
    ∀ m : Memory, Memory.wf init m = true → Memory.wf init (Memory.write init m c v) = true
  | [], _ => by
    simpa [Memory.write] using Memory.wf_cell_append init c v [] (by simp) rfl
  | (k, u) :: rest, h => by
    obtain ⟨hok, hlt, hrest⟩ := Memory.wf_cons.1 h
    unfold Memory.write
    split
    · next hk =>
      refine Memory.wf_cell_append init c v _ (fun x hx => ?_) h
      rcases List.mem_cons.1 hx with rfl | hx
      · exact hk
      · exact Nat.lt_trans hk (hlt x hx)
    · split
      · next hk => subst hk; exact Memory.wf_cell_append init c v rest hlt hrest
      · next h1 h2 =>
        refine Memory.wf_cons.2 ⟨hok, fun y hy => ?_, Memory.wf_write init c v rest hrest⟩
        rcases Memory.mem_write init c v y rest hy with hy | hy
        · exact hlt y hy
        · simp only at *; omega

theorem Memory.wf_writeAll (init : Triple Byte) (m : Memory) (r : Triple Byte)
    (h : Memory.wf init m = true) : Memory.wf init (Memory.writeAll init m r) = true := by
  simp only [Memory.writeAll, Lane.all, List.foldl]
  exact Memory.wf_write _ _ _ _ (Memory.wf_write _ _ _ _ (Memory.wf_write _ _ _ _ h))

/-- Writing all three bytes, whatever the canonical record held. -/
theorem Memory.read_writeAll (init : Triple Byte) (m : Memory) (r : Triple Byte) (c : Lane)
    (h : Memory.wf init m = true) : Memory.read init (Memory.writeAll init m r) c = r.get c := by
  have h0 := Memory.wf_write init .l0 (r.get .l0) m h
  have h1 := Memory.wf_write init .l1 (r.get .l1) _ h0
  simp only [Memory.writeAll, Lane.all, List.foldl]
  rw [Memory.read_write _ _ _ _ _ h1, Memory.read_write _ _ _ _ _ h0, Memory.read_write _ _ _ _ _ h]
  cases c <;> simp

@[simp] theorem Memory.record_get (init : Triple Byte) (m : Memory) (c : Lane) :
    (Memory.record init m).get c = Memory.read init m c := by
  cases c <;> rfl

end Sys2Proof.Machine
end

