-- ==== Sys2Proof/Laws/Lines.lean ====
section
/-! SUPPORT. What the three lists of line writes leave on the lines, and what a trace shows of them. -/

namespace Sys2Proof.Machine

@[simp] theorem Pins.writeAll_nil (p : Pins) : p.writeAll [] = p := rfl

@[simp] theorem Pins.writeAll_cons (p : Pins) (w : LineWrite) (ws : List LineWrite) :
    p.writeAll (w :: ws) = (p.write w).writeAll ws := rfl

@[simp] theorem Pins.writeAll_append (p : Pins) (ws vs : List LineWrite) :
    p.writeAll (ws ++ vs) = (p.writeAll ws).writeAll vs := List.foldl_append

@[simp] theorem lineEvents_nil : lineEvents [] = [] := rfl

@[simp] theorem lineEvents_cons (w : LineWrite) (ws : List LineWrite) :
    lineEvents (w :: ws) = .line w :: lineEvents ws := rfl

@[simp] theorem lineEvents_append (ws vs : List LineWrite) :
    lineEvents (ws ++ vs) = lineEvents ws ++ lineEvents vs := List.map_append

/-- One bit of a transfer. -/
theorem Pins.writeAll_bitWrites (p : Pins) (b : Bool) :
    p.writeAll (bitWrites b) = { p with data := bitWire b, clk := .low } := rfl

/-- A transfer leaves the clock LOW, the data line at bit 0 and the channel's enable DEASSERTED; no other line is written. -/
theorem Pins.writeAll_transfer (p : Pins) (c : Lane) (v : Byte) :
    p.writeAll (transferWrites c v) =
      { p with data := bitWire (v.getLsbD 0), clk := .low, en := p.en.set c .deasserted } := by
  simp only [transferWrites, bitOrder, List.flatMap_cons, List.flatMap_nil, List.append_nil, List.append_assoc,
    Pins.writeAll_cons, Pins.writeAll_append, Pins.writeAll_bitWrites, Pins.writeAll_nil, Pins.write]
  cases c <;> rfl

/-- The restore leaves every line at its power-on value. -/
theorem Pins.writeAll_gpioDefaults (p : Pins) (g : GpioPoweron) :
    p.writeAll (gpioDefaultWrites g) =
      ⟨g.notch, g.data, g.clk, ⟨g.en.l0.toSwitch, g.en.l1.toSwitch, g.en.l2.toSwitch⟩⟩ := rfl

/-- The level of notch `i` after `NotchApply(f)` (R144). -/
def notchAfter (f : BitVec 6) (old : Triple Switch) (i : Lane) : Switch :=
  if f.getLsbD (3 + i.idx) then notchLevel (f.getLsbD i.idx) else old.get i

/-- One lane of a notch command. -/
theorem Pins.writeAll_notchWrite (p : Pins) (f : BitVec 6) (i : Lane) :
    p.writeAll (notchWrite f i) = { p with notch := p.notch.set i (notchAfter f p.notch i) } := by
  unfold notchWrite notchAfter
  split
  · rfl
  · cases i <;> rfl

/-- A notch command sets the selected notches and leaves every other line. -/
theorem Pins.writeAll_notch (p : Pins) (f : BitVec 6) :
    p.writeAll (notchWrites f) =
      { p with notch := ⟨notchAfter f p.notch .l0, notchAfter f p.notch .l1, notchAfter f p.notch .l2⟩ } := by
  simp only [notchWrites, Lane.all, List.flatMap_cons, List.flatMap_nil, List.append_nil, Pins.writeAll_append,
    Pins.writeAll_notchWrite]
  rfl

/-- The select bit of notch `i` (R73). -/
theorem notchOperand_select (sel val : BitVec 3) (i : Lane) :
    (notchOperand sel val).getLsbD (3 + i.idx) = sel.getLsbD i.idx :=
  (BitVec.getLsbD_append (x := sel) (y := val)).trans (by simp)

/-- The value bit of notch `i` (R73). -/
theorem notchOperand_value (sel val : BitVec 3) (i : Lane) :
    (notchOperand sel val).getLsbD i.idx = val.getLsbD i.idx :=
  (BitVec.getLsbD_append (x := sel) (y := val)).trans (if_pos (by cases i <;> decide))

/-- The level of a notch line after a command whose field is put together from select and value bits. -/
theorem notchAfter_operand (sel val : BitVec 3) (old : Triple Switch) (i : Lane) :
    notchAfter (notchOperand sel val) old i =
      if sel.getLsbD i.idx then notchLevel (val.getLsbD i.idx) else old.get i := by
  rw [notchAfter, notchOperand_select, notchOperand_value]

/-- Driving three settings in turn. -/
theorem Pins.writeAll_driveAll (p : Pins) (a : Triple Byte) :
    p.writeAll (Lane.all.flatMap fun c => transferWrites c (a.get c)) =
      { p with data := bitWire (a.l2.getLsbD 0), clk := .low, en := Triple.const .deasserted } := by
  simp only [Lane.all, List.flatMap_cons, List.flatMap_nil, List.append_nil, Pins.writeAll_append,
    Pins.writeAll_transfer]
  rfl

theorem linesOfTrace_append (es fs : List Event) :
    linesOfTrace (es ++ fs) = fs.foldl Pins.afterEvent (linesOfTrace es) := List.foldl_append

theorem foldl_afterEvent_lineEvents (ws : List LineWrite) (p : Pins) :
    (lineEvents ws).foldl Pins.afterEvent p = p.writeAll ws := by
  induction ws generalizing p with
  | nil => rfl
  | cons w ws ih => exact ih (p.write w)

theorem linesOfTrace_append_lineEvents (es : List Event) (ws : List LineWrite) :
    linesOfTrace (es ++ lineEvents ws) = (linesOfTrace es).writeAll ws := by
  rw [linesOfTrace_append, foldl_afterEvent_lineEvents]

/-- The events of driving three settings, on the lines. -/
theorem foldl_afterEvent_driveAllEvents (a : Triple Byte) (p : Pins) :
    (driveAllEvents a).foldl Pins.afterEvent p =
      { p with data := bitWire (a.l2.getLsbD 0), clk := .low, en := Triple.const .deasserted } := by
  rw [driveAllEvents, foldl_afterEvent_lineEvents, Pins.writeAll_driveAll]

/-- A power loss ends a trace with no line driven. -/
theorem linesOfTrace_powerLoss (es : List Event) : linesOfTrace (es ++ [.powerLoss]) = Pins.undriven := by
  rw [linesOfTrace_append]
  rfl

/-- `load()` writes no line. -/
theorem foldl_afterEvent_loadEvents (r : Triple Byte) (p : Pins) :
    (loadEvents r).foldl Pins.afterEvent p = p := rfl

end Sys2Proof.Machine
end

