-- ==== Sys2Proof/Laws/State.lean ====
section
/-! SUPPORT. One lemma for each field and each update of the state, so that no proof unfolds a record update. -/

namespace Sys2Proof.Machine

/-! ### the volatile state -/

@[simp] theorem Volatile.capture_sync (v : Volatile) (w : Word) : (v.capture w).sync = v.sync := rfl
@[simp] theorem Volatile.capture_att (v : Volatile) (w : Word) : (v.capture w).att = v.att := rfl
@[simp] theorem Volatile.capture_pins (v : Volatile) (w : Word) : (v.capture w).pins = v.pins := rfl
@[simp] theorem Volatile.capture_mbox (v : Volatile) (w : Word) : (v.capture w).mbox = some w := rfl
@[simp] theorem Volatile.capture_ready (v : Volatile) (w : Word) : (v.capture w).ready = true := rfl
@[simp] theorem Volatile.capture_rx (v : Volatile) (w : Word) : (v.capture w).rx = .held := rfl
@[simp] theorem Volatile.capture_activity (v : Volatile) (w : Word) : (v.capture w).activity = v.activity := rfl
@[simp] theorem Volatile.take_sync (v : Volatile) (w : Word) : (v.take w).sync = v.sync := rfl
@[simp] theorem Volatile.take_att (v : Volatile) (w : Word) : (v.take w).att = v.att := rfl
@[simp] theorem Volatile.take_pins (v : Volatile) (w : Word) : (v.take w).pins = v.pins := rfl
@[simp] theorem Volatile.take_mbox (v : Volatile) (w : Word) : (v.take w).mbox = v.mbox := rfl
@[simp] theorem Volatile.take_ready (v : Volatile) (w : Word) : (v.take w).ready = false := rfl
@[simp] theorem Volatile.take_rx (v : Volatile) (w : Word) : (v.take w).rx = v.rx := rfl
@[simp] theorem Volatile.take_activity (v : Volatile) (w : Word) : (v.take w).activity = .exec w := rfl
@[simp] theorem Volatile.rearm_sync (v : Volatile) : (v.rearm).sync = v.sync := rfl
@[simp] theorem Volatile.rearm_att (v : Volatile) : (v.rearm).att = v.att := rfl
@[simp] theorem Volatile.rearm_pins (v : Volatile) : (v.rearm).pins = v.pins := rfl
@[simp] theorem Volatile.rearm_mbox (v : Volatile) : (v.rearm).mbox = v.mbox := rfl
@[simp] theorem Volatile.rearm_ready (v : Volatile) : (v.rearm).ready = v.ready := rfl
@[simp] theorem Volatile.rearm_rx (v : Volatile) : (v.rearm).rx = .armed := rfl
@[simp] theorem Volatile.rearm_activity (v : Volatile) : (v.rearm).activity = .sleep := rfl

/-! ### the ends of a step -/

@[simp] theorem State.begin_sync (s : State) (v : Volatile) : (s.begin v).sync = v.sync := rfl
@[simp] theorem State.begin_att (s : State) (v : Volatile) : (s.begin v).att = v.att := rfl
@[simp] theorem State.begin_pins (s : State) (v : Volatile) : (s.begin v).pins = v.pins := rfl
@[simp] theorem State.begin_mbox (s : State) (v : Volatile) : (s.begin v).mbox = v.mbox := rfl
@[simp] theorem State.begin_ready (s : State) (v : Volatile) : (s.begin v).ready = v.ready := rfl
@[simp] theorem State.begin_rx (s : State) (v : Volatile) : (s.begin v).rx = v.rx := rfl
@[simp] theorem State.begin_activity (s : State) (v : Volatile) : (s.begin v).activity = v.activity := rfl
@[simp] theorem State.begin_params (s : State) (v : Volatile) : (s.begin v).params = s.params := rfl
@[simp] theorem State.begin_nv (s : State) (v : Volatile) : (s.begin v).nv = s.nv := rfl
@[simp] theorem State.begin_trace (s : State) (v : Volatile) : (s.begin v).trace = s.trace := rfl
@[simp] theorem State.begin_inputs (s : State) (v : Volatile) : (s.begin v).inputs = s.inputs := rfl
@[simp] theorem State.begin_store (s : State) (v : Volatile) : (s.begin v).store = .idle := rfl
@[simp] theorem State.begin_toVolatile (s : State) (v : Volatile) : (s.begin v).toVolatile = v := rfl
@[simp] theorem Running.finish_params (r : Running) : r.finish.params = r.params := rfl
@[simp] theorem Running.finish_nv (r : Running) : r.finish.nv = r.nv := rfl
@[simp] theorem Running.finish_trace (r : Running) : r.finish.trace = r.trace := rfl
@[simp] theorem Running.finish_inputs (r : Running) : r.finish.inputs = r.inputs := rfl
@[simp] theorem Running.finish_live (r : Running) : r.finish.live = some r.toVolatile := rfl

/-! ### the actions of a step -/

@[simp] theorem Running.emit_sync (r : Running) (es : List Event) : (r.emit es).sync = r.sync := rfl
@[simp] theorem Running.emit_att (r : Running) (es : List Event) : (r.emit es).att = r.att := rfl
@[simp] theorem Running.emit_pins (r : Running) (es : List Event) : (r.emit es).pins = r.pins := rfl
@[simp] theorem Running.emit_mbox (r : Running) (es : List Event) : (r.emit es).mbox = r.mbox := rfl
@[simp] theorem Running.emit_ready (r : Running) (es : List Event) : (r.emit es).ready = r.ready := rfl
@[simp] theorem Running.emit_rx (r : Running) (es : List Event) : (r.emit es).rx = r.rx := rfl
@[simp] theorem Running.emit_activity (r : Running) (es : List Event) : (r.emit es).activity = r.activity := rfl
@[simp] theorem Running.emit_params (r : Running) (es : List Event) : (r.emit es).params = r.params := rfl
@[simp] theorem Running.emit_nv (r : Running) (es : List Event) : (r.emit es).nv = r.nv := rfl
@[simp] theorem Running.emit_trace (r : Running) (es : List Event) : (r.emit es).trace = r.trace ++ es := rfl
@[simp] theorem Running.emit_inputs (r : Running) (es : List Event) : (r.emit es).inputs = r.inputs := rfl
@[simp] theorem Running.emit_store (r : Running) (es : List Event) : (r.emit es).store = r.store := rfl
@[simp] theorem Running.emit_toVolatile (r : Running) (es : List Event) : (r.emit es).toVolatile = r.toVolatile := rfl
@[simp] theorem Running.rearm_sync (r : Running) : (r.rearm).sync = r.sync := rfl
@[simp] theorem Running.rearm_att (r : Running) : (r.rearm).att = r.att := rfl
@[simp] theorem Running.rearm_pins (r : Running) : (r.rearm).pins = r.pins := rfl
@[simp] theorem Running.rearm_mbox (r : Running) : (r.rearm).mbox = r.mbox := rfl
@[simp] theorem Running.rearm_ready (r : Running) : (r.rearm).ready = r.ready := rfl
@[simp] theorem Running.rearm_rx (r : Running) : (r.rearm).rx = .armed := rfl
@[simp] theorem Running.rearm_activity (r : Running) : (r.rearm).activity = .sleep := rfl
@[simp] theorem Running.rearm_params (r : Running) : (r.rearm).params = r.params := rfl
@[simp] theorem Running.rearm_nv (r : Running) : (r.rearm).nv = r.nv := rfl
@[simp] theorem Running.rearm_trace (r : Running) : (r.rearm).trace = r.trace ++ [.arm] := rfl
@[simp] theorem Running.rearm_inputs (r : Running) : (r.rearm).inputs = r.inputs := rfl
@[simp] theorem Running.rearm_store (r : Running) : (r.rearm).store = r.store := rfl
@[simp] theorem Running.writeLines_sync (r : Running) (ws : List LineWrite) : (r.writeLines ws).sync = r.sync := rfl
@[simp] theorem Running.writeLines_att (r : Running) (ws : List LineWrite) : (r.writeLines ws).att = r.att := rfl
@[simp] theorem Running.writeLines_pins (r : Running) (ws : List LineWrite) : (r.writeLines ws).pins = r.pins.writeAll ws := rfl
@[simp] theorem Running.writeLines_mbox (r : Running) (ws : List LineWrite) : (r.writeLines ws).mbox = r.mbox := rfl
@[simp] theorem Running.writeLines_ready (r : Running) (ws : List LineWrite) : (r.writeLines ws).ready = r.ready := rfl
@[simp] theorem Running.writeLines_rx (r : Running) (ws : List LineWrite) : (r.writeLines ws).rx = r.rx := rfl
@[simp] theorem Running.writeLines_activity (r : Running) (ws : List LineWrite) : (r.writeLines ws).activity = r.activity := rfl
@[simp] theorem Running.writeLines_params (r : Running) (ws : List LineWrite) : (r.writeLines ws).params = r.params := rfl
@[simp] theorem Running.writeLines_nv (r : Running) (ws : List LineWrite) : (r.writeLines ws).nv = r.nv := rfl
@[simp] theorem Running.writeLines_trace (r : Running) (ws : List LineWrite) : (r.writeLines ws).trace = r.trace ++ lineEvents ws := rfl
@[simp] theorem Running.writeLines_inputs (r : Running) (ws : List LineWrite) : (r.writeLines ws).inputs = r.inputs := rfl
@[simp] theorem Running.writeLines_store (r : Running) (ws : List LineWrite) : (r.writeLines ws).store = r.store := rfl
@[simp] theorem Running.setAtt_sync (r : Running) (c : Lane) (b : Byte) : (r.setAtt c b).sync = r.sync := rfl
@[simp] theorem Running.setAtt_att (r : Running) (c : Lane) (b : Byte) : (r.setAtt c b).att = r.att.set c b := rfl
@[simp] theorem Running.setAtt_pins (r : Running) (c : Lane) (b : Byte) : (r.setAtt c b).pins = r.pins := rfl
@[simp] theorem Running.setAtt_mbox (r : Running) (c : Lane) (b : Byte) : (r.setAtt c b).mbox = r.mbox := rfl
@[simp] theorem Running.setAtt_ready (r : Running) (c : Lane) (b : Byte) : (r.setAtt c b).ready = r.ready := rfl
@[simp] theorem Running.setAtt_rx (r : Running) (c : Lane) (b : Byte) : (r.setAtt c b).rx = r.rx := rfl
@[simp] theorem Running.setAtt_activity (r : Running) (c : Lane) (b : Byte) : (r.setAtt c b).activity = r.activity := rfl
@[simp] theorem Running.setAtt_params (r : Running) (c : Lane) (b : Byte) : (r.setAtt c b).params = r.params := rfl
@[simp] theorem Running.setAtt_nv (r : Running) (c : Lane) (b : Byte) : (r.setAtt c b).nv = r.nv := rfl
@[simp] theorem Running.setAtt_trace (r : Running) (c : Lane) (b : Byte) : (r.setAtt c b).trace = r.trace := rfl
@[simp] theorem Running.setAtt_inputs (r : Running) (c : Lane) (b : Byte) : (r.setAtt c b).inputs = r.inputs := rfl
@[simp] theorem Running.setAtt_store (r : Running) (c : Lane) (b : Byte) : (r.setAtt c b).store = r.store := rfl
@[simp] theorem Running.memErase_sync (r : Running) : (r.memErase).sync = r.sync := rfl
@[simp] theorem Running.memErase_att (r : Running) : (r.memErase).att = r.att := rfl
@[simp] theorem Running.memErase_pins (r : Running) : (r.memErase).pins = r.pins := rfl
@[simp] theorem Running.memErase_mbox (r : Running) : (r.memErase).mbox = r.mbox := rfl
@[simp] theorem Running.memErase_ready (r : Running) : (r.memErase).ready = r.ready := rfl
@[simp] theorem Running.memErase_rx (r : Running) : (r.memErase).rx = r.rx := rfl
@[simp] theorem Running.memErase_activity (r : Running) : (r.memErase).activity = r.activity := rfl
@[simp] theorem Running.memErase_params (r : Running) : (r.memErase).params = r.params := rfl
@[simp] theorem Running.memErase_nv (r : Running) : (r.memErase).nv = Memory.writeAll r.params.nvInit r.nv r.params.nvErased := rfl
@[simp] theorem Running.memErase_trace (r : Running) : (r.memErase).trace = r.trace ++ [.nvErase] := rfl
@[simp] theorem Running.memErase_inputs (r : Running) : (r.memErase).inputs = r.inputs := rfl
@[simp] theorem Running.memErase_store (r : Running) : (r.memErase).store = .erased := rfl
@[simp] theorem Running.memErase_toVolatile (r : Running) : (r.memErase).toVolatile = r.toVolatile := rfl
@[simp] theorem Running.loadOne_sync (r : Running) (c : Lane) : (r.loadOne c).sync = r.sync := rfl
@[simp] theorem Running.loadOne_att (r : Running) (c : Lane) : (r.loadOne c).att = r.att.set c (Memory.read r.params.nvInit r.nv c) := rfl
@[simp] theorem Running.loadOne_pins (r : Running) (c : Lane) : (r.loadOne c).pins = r.pins := rfl
@[simp] theorem Running.loadOne_mbox (r : Running) (c : Lane) : (r.loadOne c).mbox = r.mbox := rfl
@[simp] theorem Running.loadOne_ready (r : Running) (c : Lane) : (r.loadOne c).ready = r.ready := rfl
@[simp] theorem Running.loadOne_rx (r : Running) (c : Lane) : (r.loadOne c).rx = r.rx := rfl
@[simp] theorem Running.loadOne_activity (r : Running) (c : Lane) : (r.loadOne c).activity = r.activity := rfl
@[simp] theorem Running.loadOne_params (r : Running) (c : Lane) : (r.loadOne c).params = r.params := rfl
@[simp] theorem Running.loadOne_nv (r : Running) (c : Lane) : (r.loadOne c).nv = r.nv := rfl
@[simp] theorem Running.loadOne_trace (r : Running) (c : Lane) : (r.loadOne c).trace = r.trace ++ [.nvRead c (Memory.read r.params.nvInit r.nv c)] := rfl
@[simp] theorem Running.loadOne_inputs (r : Running) (c : Lane) : (r.loadOne c).inputs = r.inputs := rfl
@[simp] theorem Running.loadOne_store (r : Running) (c : Lane) : (r.loadOne c).store = r.store := rfl
@[simp] theorem Running.rearm_toVolatile (r : Running) : r.rearm.toVolatile = r.toVolatile.rearm := rfl

/-! ### the loss of power -/

@[simp] theorem State.goOff_params (s : State) (es : List Event) (nv : Memory) : (s.goOff es nv).params = s.params := rfl
@[simp] theorem State.goOff_nv (s : State) (es : List Event) (nv : Memory) : (s.goOff es nv).nv = nv := rfl
@[simp] theorem State.goOff_trace (s : State) (es : List Event) (nv : Memory) : (s.goOff es nv).trace = s.trace ++ es ++ [.powerLoss] := rfl
@[simp] theorem State.goOff_inputs (s : State) (es : List Event) (nv : Memory) : (s.goOff es nv).inputs = s.inputs := rfl
@[simp] theorem State.goOff_live (s : State) (es : List Event) (nv : Memory) : (s.goOff es nv).live = none := rfl

end Sys2Proof.Machine
end

