-- ==== Sys2Proof/Laws/Ops.lean ====
section
/-! SUPPORT. For each shared operation, once, everything it does. -/

namespace Sys2Proof.Machine

/-- `GpioDefaults()`. -/
theorem Running.gpioDefaults_eq (r : Running) :
    r.gpioDefaults =
      { r with
        pins := ⟨r.params.gpioPoweron.notch, r.params.gpioPoweron.data, r.params.gpioPoweron.clk,
          ⟨r.params.gpioPoweron.en.l0.toSwitch, r.params.gpioPoweron.en.l1.toSwitch,
            r.params.gpioPoweron.en.l2.toSwitch⟩⟩
        trace := r.trace ++ lineEvents (gpioDefaultWrites r.params.gpioPoweron) } := by
  simp only [Running.gpioDefaults, Running.writeLines, Running.emit, Pins.writeAll_gpioDefaults]

/-- `NotchApply(f)`. -/
theorem Running.notchApply_eq (r : Running) (f : BitVec 6) :
    r.notchApply f =
      { r with
        pins := { r.pins with
          notch := ⟨notchAfter f r.pins.notch .l0, notchAfter f r.pins.notch .l1, notchAfter f r.pins.notch .l2⟩ }
        trace := r.trace ++ lineEvents (notchWrites f) } := by
  simp only [Running.notchApply, Running.writeLines, Running.emit, Pins.writeAll_notch]

/-- `Drive(c, v)`. -/
theorem Running.drive_eq (r : Running) (c : Lane) (v : Byte) :
    r.drive c v =
      { r with
        pins := { r.pins with
          data := bitWire (v.getLsbD 0), clk := .low, en := r.pins.en.set c .deasserted }
        trace := r.trace ++ lineEvents (transferWrites c v) } := by
  simp only [Running.drive, Running.writeLines, Running.emit, Pins.writeAll_transfer]

/-- Driving all three settings. -/
theorem Running.driveAll_eq (r : Running) :
    r.driveAll =
      { r with
        pins := { r.pins with
          data := bitWire (r.att.l2.getLsbD 0), clk := .low, en := Triple.const .deasserted }
        trace := r.trace ++ driveAllEvents r.att } := by
  simp only [Running.driveAll, Lane.all, List.foldl, Running.drive_eq, driveAllEvents, List.flatMap_cons,
    List.flatMap_nil, List.append_nil, lineEvents_append, List.append_assoc]
  rfl

/-- `load()`. -/
theorem Running.load_eq (r : Running) :
    r.load =
      { r with
        att := Memory.record r.params.nvInit r.nv
        trace := r.trace ++ loadEvents (Memory.record r.params.nvInit r.nv) } := by
  simp only [Running.load, Running.loadOne, Running.memRead, Running.emit, Running.setAtt, Lane.all, List.foldl,
    loadEvents, List.map, List.append_assoc, Memory.record_get]
  rfl

/-- The events of a commit of the settings `a` (R170). -/
def commitEvents (a : Triple Byte) : List Event :=
  .nvErase :: Lane.all.map fun c => .nvWrite c (a.get c)

/-- `commit()`: it never stops, and the store ends IDLE. -/
theorem Running.commit_eq (r : Running) :
    r.commit = .ok
      { r with
        nv := Memory.writeAll r.params.nvInit (Memory.writeAll r.params.nvInit r.nv r.params.nvErased) r.att
        trace := r.trace ++ commitEvents r.att
        store := .idle } := by
  simp only [Running.commit, Running.memErase, Running.memWrite, Running.writeBack, Running.emit, Lane.all,
    StorePhase.afterWrite, Memory.writeAll, List.foldl, commitEvents, List.map, List.append_assoc]
  rfl

/-- A command step answers a next state exactly when the device is powered and the body does not stop. -/
theorem State.attempt_next {s t : State} {f : Running → Except Fault Running} :
    s.attempt f = .next t ↔ ∃ v r, s.live = some v ∧ f (s.begin v) = .ok r ∧ t = r.finish := by
  constructor
  · intro h
    unfold State.attempt at h
    split at h
    · cases h
    · next v hv =>
      split at h
      · cases h
      · next r hr => cases h; exact ⟨v, r, hv, hr, rfl⟩
  · rintro ⟨v, r, hv, hr, rfl⟩
    simp [State.attempt, hv, hr]

theorem State.command_next {s t : State} {f : Running → Running} :
    s.command f = .next t ↔ ∃ v, s.live = some v ∧ t = (f (s.begin v)).finish := by
  simp [State.command, State.attempt_next]

theorem State.attempt_of_live {s : State} {v : Volatile} {f : Running → Except Fault Running} {r : Running}
    (h : s.live = some v) (hr : f (s.begin v) = .ok r) : s.attempt f = .next r.finish :=
  State.attempt_next.2 ⟨v, r, h, hr, rfl⟩

theorem State.command_of_live {s : State} {v : Volatile} (h : s.live = some v) (f : Running → Running) :
    s.command f = .next (f (s.begin v)).finish := by
  simp only [State.command, State.attempt, h]

/-- A command step on a device without power. -/
theorem State.attempt_off {s : State} (h : s.live = none) (f : Running → Except Fault Running) :
    s.attempt f = .fault .unpowered := by
  simp only [State.attempt, h]

/-- The receiver step is taken by a powered device that is ARMED. -/
theorem State.receive_armed {s : State} {v : Volatile} (h : s.live = some v) (ha : v.rx = .armed) (w : Word) :
    s.receive w = { s with live := some (v.capture w), trace := s.trace ++ [.deliver w] } := by
  simp only [State.receive, h, ha, if_true]

theorem State.receive_held {s : State} {v : Volatile} (h : s.live = some v) (ha : v.rx ≠ .armed) (w : Word) :
    s.receive w = s := by
  simp only [State.receive, h, if_neg ha]

theorem State.receive_off {s : State} (h : s.live = none) (w : Word) : s.receive w = s := by
  simp only [State.receive, h]

/-- Everything the receiver step can do. -/
theorem State.receive_cases (s : State) (w : Word) :
    s.receive w = s ∨
      ∃ v, s.live = some v ∧ v.rx = .armed ∧
        s.receive w = { s with live := some (v.capture w), trace := s.trace ++ [.deliver w] } := by
  cases h : s.live with
  | none => exact .inl (State.receive_off h w)
  | some v =>
    by_cases ha : v.rx = .armed
    · exact .inr ⟨v, rfl, ha, State.receive_armed h ha w⟩
    · exact .inl (State.receive_held h ha w)

/-- Everything the fetch step can do. -/
theorem State.fetch_next {s t : State} {v : Volatile} :
    s.fetch v = .next t ↔
      ∃ w, v.mbox = some w ∧ t = { s with live := some (v.take w), trace := s.trace ++ [.fetch w] } := by
  unfold State.fetch
  cases v.mbox <;> simp [eq_comm]

/-- The backoff end. -/
theorem State.backoffEnd_eq (s : State) (v : Volatile) :
    s.backoffEnd v = { s with live := some v.rearm, trace := s.trace ++ [.backoffEnd, .arm] } := by
  simp [State.backoffEnd, Running.finish, Running.emit, Running.rearm, State.begin]

/-- Boot: what it leaves and what it emits. -/
theorem State.boot_eq (s : State) :
    s.boot =
      { s with
        live := some (Volatile.afterBoot s.params.gpioPoweron s.nvRecord)
        trace := s.trace ++ bootEvents s.params.gpioPoweron s.nvRecord } := by
  simp only [State.boot, Running.gpioDefaults_eq, Running.load_eq, Running.driveAll_eq, Running.rearm, Running.emit,
    Running.finish, State.begin, bootEvents, List.append_assoc, List.cons_append, List.nil_append]
  rfl

theorem State.powerOn_off {s : State} (h : s.live = none) : s.powerOn = s.boot := by
  simp only [State.powerOn, h]

theorem State.powerOn_powered {s : State} {v : Volatile} (h : s.live = some v) : s.powerOn = s := by
  simp only [State.powerOn, h]

theorem State.powerLoss_off {s : State} (h : s.live = none) : s.powerLoss = s := by
  simp only [State.powerLoss, h]

theorem State.powerLoss_powered {s : State} {v : Volatile} (h : s.live = some v) :
    s.powerLoss = s.goOff [] s.nv := by
  simp only [State.powerLoss, h]

/-- The record after reset is in canonical form. -/
theorem State.reset_memory_wf : Memory.wf State.reset.params.nvInit State.reset.nv = true := rfl

end Sys2Proof.Machine
end

