-- ==== Sys2Proof/Laws/Dispatch.lean ====
section
/-! SUPPORT. Each command as the body of its step, so that no proof unfolds the dispatch. -/

namespace Sys2Proof.Machine

theorem exec_unlock (s : State) : exec .unlock s = s.command fun r => ({ r with sync := .unlocked }).rearm := rfl

theorem exec_lockedDrop (w : Word) (s : State) :
    exec (.lockedDrop w) s = s.command fun r => { r.emit [.backoffBegin] with activity := .backoff } := rfl

theorem exec_reset (s : State) :
    exec .reset s = s.command fun r => ({ r with sync := .locked }).gpioDefaults.load.driveAll.rearm := rfl

theorem exec_rsvd (x : BitVec 15) (s : State) : exec (.rsvd x) s = s.command fun r => r.rearm := rfl

theorem exec_foreign (a : BitVec 7) (p : BitVec 8) (s : State) :
    exec (.foreign a p) s = s.command fun r => r.rearm := rfl

theorem exec_notch (a : BitVec 7) (x : BitVec 1) (sel val : BitVec 3) (s : State) :
    exec (.notch a x sel val) s = s.command fun r => (r.notchApply (notchOperand sel val)).rearm := rfl

theorem exec_commit (a : BitVec 7) (x : BitVec 5) (s : State) :
    exec (.commit a x) s =
      s.attempt fun r =>
        match r.commit with
        | .error e => .error e
        | .ok r' => .ok r'.rearm := rfl

/-- The three SET commands are one command with a channel. -/
theorem exec_setCommand (c : Lane) (a : BitVec 7) (d : BitVec 5) (s : State) :
    exec (setCommand c a d) s = s.command fun r => r.setChannel c d := by
  cases c <;> rfl

/-- A command answers a next state on a powered device only. -/
theorem live_of_exec {i : Instr} {s t : State} (h : exec i s = .next t) : ∃ v, s.live = some v := by
  cases hl : s.live with
  | some v => exact ⟨v, rfl⟩
  | none =>
    cases i <;>
      simp [exec, execUnlock, execLockedDrop, execReset, execRsvd, execForeign, execNotch, execCommit, execSetCh0,
        execSetCh1, execSetCh2, State.command, State.attempt, hl] at h

/-- Everything a command can do: the next state of each, in closed form (R101 to R103, R122 to R126). -/
theorem exec_cases {i : Instr} {s t : State} (h : exec i s = .next t) :
    ∃ v, s.live = some v ∧
      ((i = .unlock ∧
          t = { s with live := some { v with sync := .unlocked, rx := .armed, activity := .sleep }, trace := s.trace ++ [.arm] }) ∨
        ((∃ w, i = .lockedDrop w) ∧
          t = { s with live := some { v with activity := .backoff }, trace := s.trace ++ [.backoffBegin] }) ∨
        (i = .reset ∧
          t = { s with
            live := some { v with
              sync := .locked
              att := s.nvRecord
              pins := ⟨s.params.gpioPoweron.notch, bitWire (s.nvRecord.l2.getLsbD 0), .low, Triple.const .deasserted⟩
              rx := .armed
              activity := .sleep }
            trace := s.trace ++
              (lineEvents (gpioDefaultWrites s.params.gpioPoweron) ++ loadEvents s.nvRecord ++
                driveAllEvents s.nvRecord ++ [.arm]) }) ∨
        (((∃ x, i = .rsvd x) ∨ ∃ a p, i = .foreign a p) ∧
          t = { s with live := some { v with rx := .armed, activity := .sleep }, trace := s.trace ++ [.arm] }) ∨
        (∃ a x sel val, i = .notch a x sel val ∧
          t = { s with
            live := some { v with
              pins := v.pins.writeAll (notchWrites (notchOperand sel val))
              rx := .armed
              activity := .sleep }
            trace := s.trace ++ (lineEvents (notchWrites (notchOperand sel val)) ++ [.arm]) }) ∨
        (∃ c a d, i = setCommand c a d ∧
          t = { s with
            live := some { v with
              att := v.att.set c (settingOperand d)
              pins := v.pins.writeAll (transferWrites c (settingOperand d))
              rx := .armed
              activity := .sleep }
            trace := s.trace ++ (lineEvents (transferWrites c (settingOperand d)) ++ [.arm]) }) ∨
        (∃ a x, i = .commit a x ∧
          t = { s with
            nv := Memory.writeAll s.params.nvInit (Memory.writeAll s.params.nvInit s.nv s.params.nvErased) v.att
            live := some { v with rx := .armed, activity := .sleep }
            trace := s.trace ++
              [.nvErase, .nvWrite .l0 v.att.l0, .nvWrite .l1 v.att.l1, .nvWrite .l2 v.att.l2, .arm] })) := by
  obtain ⟨v, hv⟩ := live_of_exec h
  refine ⟨v, hv, ?_⟩
  have hset : ∀ c a d, exec (setCommand c a d) s = .next t →
      t = { s with
        live := some { v with
          att := v.att.set c (settingOperand d)
          pins := v.pins.writeAll (transferWrites c (settingOperand d))
          rx := .armed
          activity := .sleep }
        trace := s.trace ++ (lineEvents (transferWrites c (settingOperand d)) ++ [.arm]) } := by
    intro c a d h
    rw [exec_setCommand, State.command_of_live hv] at h
    cases h
    simp [Running.setChannel, Running.drive, Running.writeLines, Running.setAtt, Running.finish, State.begin,
      Running.rearm, Volatile.rearm, Running.emit]
  cases i with
  | unlock =>
    rw [exec_unlock, State.command_of_live hv] at h
    cases h
    exact .inl ⟨rfl, rfl⟩
  | lockedDrop w =>
    rw [exec_lockedDrop, State.command_of_live hv] at h
    cases h
    exact .inr (.inl ⟨⟨w, rfl⟩, rfl⟩)
  | reset =>
    rw [exec_reset, State.command_of_live hv] at h
    cases h
    refine .inr (.inr (.inl ⟨rfl, ?_⟩))
    simp only [Running.gpioDefaults_eq, Running.load_eq, Running.driveAll_eq, Running.finish, Running.emit, State.begin,
      Running.rearm, Volatile.rearm, List.append_assoc]
    rfl
  | rsvd x =>
    rw [exec_rsvd, State.command_of_live hv] at h
    cases h
    exact .inr (.inr (.inr (.inl ⟨.inl ⟨x, rfl⟩, rfl⟩)))
  | foreign a p =>
    rw [exec_foreign, State.command_of_live hv] at h
    cases h
    exact .inr (.inr (.inr (.inl ⟨.inr ⟨a, p, rfl⟩, rfl⟩)))
  | notch a x sel val =>
    rw [exec_notch, State.command_of_live hv] at h
    cases h
    refine .inr (.inr (.inr (.inr (.inl ⟨a, x, sel, val, rfl, ?_⟩))))
    simp [Running.notchApply, Running.writeLines, Running.finish, State.begin, Running.rearm, Volatile.rearm,
      Running.emit]
  | commit a x =>
    rw [exec_commit, State.attempt_of_live hv (by rw [Running.commit_eq])] at h
    cases h
    refine .inr (.inr (.inr (.inr (.inr (.inr ⟨a, x, rfl, ?_⟩)))))
    simp [Running.finish, State.begin, Running.rearm, Volatile.rearm, Running.emit, commitEvents, Lane.all, Triple.get]
  | setCh0 a d => exact .inr (.inr (.inr (.inr (.inr (.inl ⟨.l0, a, d, rfl, hset .l0 a d h⟩)))))
  | setCh1 a d => exact .inr (.inr (.inr (.inr (.inr (.inl ⟨.l1, a, d, rfl, hset .l1 a d h⟩)))))
  | setCh2 a d => exact .inr (.inr (.inr (.inr (.inr (.inl ⟨.l2, a, d, rfl, hset .l2 a d h⟩)))))

end Sys2Proof.Machine
end

