-- ==== Sys2Proof/Laws/PerInstr.lean ====
section
/-! SUPPORT. Statements for all commands, one lemma for each constructor: the fixed bits of the opcode table (`30_encoding.md`
R76) stand in the encoder's words. -/

namespace Sys2Proof.Laws.FixedBits

/-- The `mask` column of a command's row. -/
def rowMask : Instr → Word
  | .unlock => 0xFFFF#16
  | .lockedDrop _ => 0x0000#16
  | .reset => 0xFFFF#16
  | .rsvd _ => 0x8000#16
  | .foreign _ _ => 0x8000#16
  | .notch _ _ _ _ => 0x8080#16
  | .commit _ _ => 0x80E0#16
  | .setCh0 _ _ => 0x80E0#16
  | .setCh1 _ _ => 0x80E0#16
  | .setCh2 _ _ => 0x80E0#16

/-- The `match` column of a command's row. -/
def rowWant : Instr → Word
  | .unlock => 0xD00D#16
  | .lockedDrop _ => 0x0000#16
  | .reset => 0xFFFF#16
  | .rsvd _ => 0x8000#16
  | .foreign _ _ => 0x0000#16
  | .notch _ _ _ _ => 0x0080#16
  | .commit _ _ => 0x0060#16
  | .setCh0 _ _ => 0x0000#16
  | .setCh1 _ _ => 0x0020#16
  | .setCh2 _ _ => 0x0040#16

/-- The encoder's word of a command has the fixed bits of its row. -/
def Statement (i : Instr) : Prop := encode i &&& rowMask i = rowWant i

theorem unlock : Statement .unlock := rfl

theorem lockedDrop (w : Word) : Statement (.lockedDrop w) := by
  simp [Statement, rowMask, rowWant]

theorem reset : Statement .reset := rfl

theorem rsvd (x : BitVec 15) : Statement (.rsvd x) := by
  refine BitVec.eq_of_getLsbD_eq fun i hi => ?_
  simp only [encode, wordField, rowMask, rowWant]
  interval_cases i <;> simp

theorem foreign (a : BitVec 7) (p : BitVec 8) : Statement (.foreign a p) := by
  refine BitVec.eq_of_getLsbD_eq fun i hi => ?_
  simp only [encode, wordField, rowMask, rowWant]
  interval_cases i <;> simp

theorem notch (a : BitVec 7) (x : BitVec 1) (sel val : BitVec 3) : Statement (.notch a x sel val) := by
  refine BitVec.eq_of_getLsbD_eq fun i hi => ?_
  simp only [encode, wordField, rowMask, rowWant]
  interval_cases i <;> simp

theorem commit (a : BitVec 7) (x : BitVec 5) : Statement (.commit a x) := by
  refine BitVec.eq_of_getLsbD_eq fun i hi => ?_
  simp only [encode, wordField, rowMask, rowWant]
  interval_cases i <;> simp

theorem setCh0 (a : BitVec 7) (v : BitVec 5) : Statement (.setCh0 a v) := by
  refine BitVec.eq_of_getLsbD_eq fun i hi => ?_
  simp only [encode, wordField, rowMask, rowWant]
  interval_cases i <;> simp

theorem setCh1 (a : BitVec 7) (v : BitVec 5) : Statement (.setCh1 a v) := by
  refine BitVec.eq_of_getLsbD_eq fun i hi => ?_
  simp only [encode, wordField, rowMask, rowWant]
  interval_cases i <;> simp

theorem setCh2 (a : BitVec 7) (v : BitVec 5) : Statement (.setCh2 a v) := by
  refine BitVec.eq_of_getLsbD_eq fun i hi => ?_
  simp only [encode, wordField, rowMask, rowWant]
  interval_cases i <;> simp

end Sys2Proof.Laws.FixedBits
end

