-- ==== Sys2Proof/Laws/Step.lean ====
section
/-! SUPPORT. Everything one step can do: the core's enabled step, the choices of the environment, and the packaged argument that a
property kept by each of them is kept by `step`. -/

namespace Sys2Proof.Machine

/-- A command step runs the decoded command (R100). -/
theorem State.coreStep_exec {s : State} {v : Volatile} {w : Word} (h : s.live = some v)
    (hw : v.activity = .exec w) : s.coreStep = exec (s.commandFor v w) s := by
  simp only [State.coreStep, h, hw]

theorem State.coreStep_sleep {s : State} {v : Volatile} (h : s.live = some v) (hs : v.activity = .sleep) :
    s.coreStep = if v.ready then s.fetch v else .next s := by
  simp only [State.coreStep, h, hs]

theorem State.coreStep_backoff {s : State} {v : Volatile} (h : s.live = some v) (hb : v.activity = .backoff) :
    s.coreStep = .next (s.backoffEnd v) := by
  simp only [State.coreStep, h, hb]

theorem State.coreStep_off {s : State} (h : s.live = none) : s.coreStep = .next s := by
  simp only [State.coreStep, h]

/-- Everything the core's enabled step can do (R206). -/
theorem State.coreStep_cases {s t : State} (h : s.coreStep = .next t) :
    t = s ∨
      (∃ v w, s.live = some v ∧ v.activity = .sleep ∧ v.ready = true ∧ v.mbox = some w ∧
        t = { s with live := some (v.take w), trace := s.trace ++ [.fetch w] }) ∨
      (∃ v w, s.live = some v ∧ v.activity = .exec w ∧ exec (s.commandFor v w) s = .next t) ∨
      (∃ v, s.live = some v ∧ v.activity = .backoff ∧
        t = { s with live := some v.rearm, trace := s.trace ++ [.backoffEnd, .arm] }) := by
  cases hl : s.live with
  | none =>
    rw [State.coreStep_off hl] at h
    cases h
    exact .inl rfl
  | some v =>
    cases ha : v.activity with
    | sleep =>
      rw [State.coreStep_sleep hl ha] at h
      split at h
      · next hr =>
        obtain ⟨w, hw, rfl⟩ := State.fetch_next.1 h
        exact .inr (.inl ⟨v, w, rfl, ha, hr, hw, rfl⟩)
      · cases h
        exact .inl rfl
    | exec w =>
      rw [State.coreStep_exec hl ha] at h
      exact .inr (.inr (.inl ⟨v, w, rfl, ha, h⟩))
    | backoff =>
      rw [State.coreStep_backoff hl ha] at h
      cases h
      exact .inr (.inr (.inr ⟨v, rfl, ha, State.backoffEnd_eq s v⟩))

/-- Nothing more happens outside: the core's step. -/
theorem step_of_nil {s : State} (h : s.inputs = []) : step s = s.coreStep := by
  simp only [step, State.advance, h]

/-- A choice of the environment is taken, and is gone. -/
theorem step_of_cons {s : State} {x : Input} {xs : List Input} (h : s.inputs = x :: xs) :
    step s = State.react { s with inputs := xs } x := by
  simp only [step, State.advance, h]

/-- Only a step of a powered device with a command in execution can be a COMMIT step. -/
theorem State.committing_iff {s : State} :
    s.committing = true ↔ ∃ v w, s.live = some v ∧ v.activity = .exec w ∧ isCommit (s.commandFor v w) = true := by
  unfold State.committing
  cases s.live with
  | none => simp
  | some v => cases h : v.activity <;> simp [h]

/-- The events that a power loss cuts, where the core has a step to be cut. -/
theorem State.inFlight_powered {s t : State} {v : Volatile} (h : s.live = some v) (ht : s.coreStep = .next t) :
    s.inFlight = newEvents s t := by
  simp only [State.inFlight, h]
  rw [ht]
  rfl

/-- In OFF the step to be cut is the boot. -/
theorem State.inFlight_off {s : State} (h : s.live = none) :
    s.inFlight = bootEvents s.params.gpioPoweron s.nvRecord := by
  simp only [State.inFlight, h, State.boot_eq, List.drop_left]

/-- A property that the core's step, the receiver step, boot and every power loss keep is kept by every choice of the
environment. -/
theorem react_keeps {P : State → Prop}
    (core : ∀ s t, P s → s.coreStep = .next t → P t)
    (receive : ∀ s v w, P s → s.live = some v → v.rx = .armed →
      P { s with live := some (v.capture w), trace := s.trace ++ [.deliver w] })
    (boot : ∀ s, P s → s.live = none → P s.boot)
    (loss : ∀ s v, P s → s.live = some v → P (s.goOff [] s.nv))
    (cut : ∀ s k draw, P s → P (s.powerLossIn k draw))
    {s t : State} {x : Input} (hs : P s) (h : s.react x = .next t) : P t := by
  cases x with
  | run => exact core s t hs h
  | word w =>
    cases h
    rcases State.receive_cases s w with hr | ⟨v, hv, ha, hr⟩ <;> rw [hr]
    · exact hs
    · exact receive s v w hs hv ha
  | powerOn =>
    cases h
    cases hl : s.live with
    | none => rw [State.powerOn_off hl]; exact boot s hs hl
    | some v => rw [State.powerOn_powered hl]; exact hs
  | powerLoss =>
    cases h
    cases hl : s.live with
    | none => rw [State.powerLoss_off hl]; exact hs
    | some v => rw [State.powerLoss_powered hl]; exact loss s v hs hl
  | powerLossIn k draw =>
    cases h
    exact cut s k draw hs

/-- What every choice of the environment keeps, whatever choices come after it, every step keeps. -/
theorem step_keeps {P : State → Prop}
    (inputs : ∀ s xs, P s → P { s with inputs := xs })
    (core : ∀ s t, P s → s.coreStep = .next t → P t)
    (receive : ∀ s v w, P s → s.live = some v → v.rx = .armed →
      P { s with live := some (v.capture w), trace := s.trace ++ [.deliver w] })
    (boot : ∀ s, P s → s.live = none → P s.boot)
    (loss : ∀ s v, P s → s.live = some v → P (s.goOff [] s.nv))
    (cut : ∀ s k draw, P s → P (s.powerLossIn k draw))
    {s t : State} (hs : P s) (h : step s = .next t) : P t := by
  cases hi : s.inputs with
  | nil => exact core s t hs (step_of_nil hi ▸ h)
  | cons x xs =>
    rw [step_of_cons hi] at h
    exact react_keeps core receive boot loss cut (inputs s xs hs) h

/-- The state that `withFetchWord` makes runs the command of the word it holds. -/
theorem step_aboutToRun (s : State) (w : Word) :
    step (s.aboutToRun w) = exec (decode (tableSync w) tableDevice w) (s.aboutToRun w) := rfl

end Sys2Proof.Machine
end

