-- ==== Sys2Proof/Laws/Run.lean ====
section
/-! SUPPORT. Runs of several steps: one step at a time, one run after another, and what every step keeps. -/

namespace Sys2Proof.Machine

/-- A run that begins with a step to `t`. -/
theorem runSteps_of_step {s t : State} (h : step s = .next t) (n : Nat) : runSteps (n + 1) s = runSteps n t := by
  rw [runSteps, h]

/-- A run of several steps begins with one. -/
theorem step_of_runSteps {n : Nat} {s u : State} (h : runSteps (n + 1) s = .next u) :
    ∃ t, step s = .next t ∧ runSteps n t = .next u := by
  rw [runSteps] at h
  split at h
  · next t ht => exact ⟨t, ht, h⟩
  · cases h
  · cases h

/-- One run after another. -/
theorem runSteps_add {n : Nat} {s t : State} (h : runSteps n s = .next t) (m : Nat) :
    runSteps (n + m) s = runSteps m t := by
  induction n generalizing s with
  | zero => cases h; rw [Nat.zero_add]
  | succ n ih =>
    obtain ⟨u, hu, hr⟩ := step_of_runSteps h
    rw [show n + 1 + m = (n + m) + 1 by omega, runSteps_of_step hu, ih hr]

/-- A property that every step keeps holds after every run. -/
theorem runSteps_keeps {P : State → Prop} (keeps : ∀ s t, P s → step s = .next t → P t) {n : Nat} {s u : State}
    (hs : P s) (h : runSteps n s = .next u) : P u := by
  induction n generalizing s with
  | zero => cases h; exact hs
  | succ n ih =>
    obtain ⟨t, ht, hr⟩ := step_of_runSteps h
    exact ih (keeps s t hs ht) hr

end Sys2Proof.Machine
end

