-- ==== Sys2Proof/Tests/Slice0.lean ====
section
/-! SUPPORT. Tests of the model against the spec's own examples and vectors (`95_test_vectors.md`; each comment names the vector), the
smoke tests of the well-formedness checks, and for each statement with hypotheses a state and operands that meet them. -/

namespace Sys2Proof.Tests

open Sys2Proof.Machine

/-! ### Devices to test on -/

/-- Parameters of a device of address `dev`. -/
def testParams (dev : DevAddr) : Params where
  devAddr := dev
  nvInit := ⟨1#8, 2#8, 3#8⟩
  nvErased := ⟨0xAA#8, 0xBB#8, 0xCC#8⟩
  gpioPoweron :=
    { notch := ⟨.deasserted, .asserted, .undriven⟩
      data := .high
      clk := .undriven
      en := ⟨.deasserted, .undriven, .deasserted⟩ }
  backoffInterval := 100
  linePolarity := { notch := Triple.const .activeHigh, en := Triple.const .activeLow }

/-- Volatile state of a device about its business, settings 5, 6, 7. -/
def testVolatile (sync : Sync) (activity : Activity) : Volatile where
  sync := sync
  att := ⟨5#8, 6#8, 7#8⟩
  pins := ⟨Triple.const .undriven, .high, .high, Triple.const .deasserted⟩
  mbox := some 0x1234#16
  ready := false
  rx := .held
  activity := activity

/-- A device in EXEC(w). -/
def executing (dev : DevAddr) (sync : Sync) (w : Word) : State where
  params := testParams dev
  nv := []
  trace := []
  inputs := []
  live := some (testVolatile sync (.exec w))

/-- A device asleep and ARMED, to which `inputs` happens. -/
def sleeping (sync : Sync) (inputs : List Input) : State where
  params := testParams 0x01#7
  nv := []
  trace := []
  inputs := inputs
  live := some { testVolatile sync .sleep with rx := .armed }

/-- A device in OFF whose record holds 7, 8, 9, to which `inputs` happens. -/
def switchedOff (inputs : List Input) : State where
  params := testParams 0x01#7
  nv := [(0, 7#8), (1, 8#8), (2, 9#8)]
  trace := []
  inputs := inputs
  live := none

/-- The volatile state after one step. -/
def liveAfter (s : State) : Option Volatile :=
  match step s with
  | .next t => t.live
  | .fault _ => none
  | .refused _ => none

/-- The trace after one step. -/
def traceAfter (s : State) : List Event :=
  match step s with
  | .next t => t.trace
  | .fault _ => []
  | .refused _ => []

/-- The record after one step. -/
def recordAfter (s : State) : Option (Triple Byte) :=
  match step s with
  | .next t => some t.nvRecord
  | .fault _ => none
  | .refused _ => none

/-- The phase after one step. -/
def phaseAfter (s : State) : Option Phase :=
  match step s with
  | .next t => some t.phase
  | .fault _ => none
  | .refused _ => none

/-! ### Words written out from the encodings -/

-- S1, W1: 1101_0000_0000_1101 while LOCKED
theorem test_decode_unlock : decode .locked 0x01#7 0b1101000000001101#16 = .unlock := by decide
-- S2: all ones while LOCKED is no RESET
theorem test_decode_locked_reset_word :
    decode .locked 0x01#7 0b1111111111111111#16 = .lockedDrop 0xFFFF#16 := by decide
-- S4, S5: one bit off the magic word
theorem test_decode_near_magic :
    decode .locked 0x01#7 0xD00C#16 = .lockedDrop 0xD00C#16 ∧ decode .locked 0x01#7 0x500D#16 = .lockedDrop 0x500D#16 := by
  decide
-- S7, W1
theorem test_decode_reset : decode .unlocked 0x01#7 0b1111111111111111#16 = .reset := by decide
-- S8, D1, D2
theorem test_decode_rsvd :
    decode .unlocked 0x01#7 0xD00D#16 = .rsvd 0x500D#15 ∧ decode .unlocked 0x01#7 0x8000#16 = .rsvd 0#15 ∧
      decode .unlocked 0x01#7 0xFFFE#16 = .rsvd 0x7FFE#15 := by decide
-- W4, D3, D4, D15, D20
theorem test_decode_foreign :
    decode .unlocked 0x01#7 0x023F#16 = .foreign 0x02#7 0x3F#8 ∧ decode .unlocked 0x01#7 0x0000#16 = .foreign 0#7 0#8 ∧
      decode .unlocked 0x01#7 0x4000#16 = .foreign 0x40#7 0#8 ∧
      decode .unlocked 0x42#7 0x0111#16 = .foreign 0x01#7 0x11#8 := by decide
-- W6: 0 0000001 1 0 011 011, and D13: bit 6 set
theorem test_decode_notch :
    decode .unlocked 0x01#7 0b0000000110011011#16 = .notch 0x01#7 0#1 3#3 3#3 ∧
      decode .unlocked 0x01#7 0x01C0#16 = .notch 0x01#7 1#1 0#3 0#3 := by decide
-- W11: payloads 0x60 to 0x7F are COMMIT, 0xE0 is NOTCH
theorem test_decode_commit :
    decode .unlocked 0x01#7 0b0000000101100000#16 = .commit 0x01#7 0#5 ∧
      decode .unlocked 0x01#7 0x017F#16 = .commit 0x01#7 31#5 ∧
      decode .unlocked 0x01#7 0x01E0#16 = .notch 0x01#7 1#1 4#3 0#3 := by decide
-- W6b, W5, D8
theorem test_decode_set :
    decode .unlocked 0x01#7 0b0000000100011001#16 = .setCh0 0x01#7 25#5 ∧
      decode .unlocked 0x01#7 0b0000000100111111#16 = .setCh1 0x01#7 31#5 ∧
      decode .unlocked 0x01#7 0b0000000101010001#16 = .setCh2 0x01#7 17#5 := by decide
-- W10, D16, D17, D18, D19: the groups need not agree
theorem test_decode_cross_group :
    decode .unlocked 0x42#7 0x0211#16 = .setCh0 0x02#7 17#5 ∧ decode .unlocked 0x42#7 0x4211#16 = .setCh0 0x42#7 17#5 ∧
      decode .unlocked 0x42#7 0x4011#16 = .setCh0 0x40#7 17#5 ∧
      decode .unlocked 0x42#7 0x4111#16 = .setCh0 0x41#7 17#5 := by decide
-- the words of R81's table, the other way round
theorem test_encode :
    encode .unlock = 0xD00D#16 ∧ encode .reset = 0xFFFF#16 ∧ encode (.rsvd 0x7FFE#15) = 0xFFFE#16 ∧
      encode (.lockedDrop 0x013F#16) = 0x013F#16 ∧ encode (.foreign 0x02#7 0x3F#8) = 0x023F#16 ∧
      encode (.notch 0x42#7 0#1 7#3 0#3) = 0x42B8#16 ∧ encode (.commit 0x01#7 31#5) = 0x017F#16 ∧
      encode (.setCh0 0x01#7 10#5) = 0x010A#16 ∧ encode (.setCh1 0x01#7 20#5) = 0x0134#16 ∧
      encode (.setCh2 0x01#7 17#5) = 0x0151#16 := by decide
-- R54, R70: two bytes, the high one first; nothing else is a word
theorem test_decode_bytes :
    decodeBytes .unlocked 0x01#7 [0x01#8, 0x51#8] = .ok (.setCh2 0x01#7 17#5) ∧
      decodeBytes .unlocked 0x01#7 [0x01#8] = .error (.notOneWord 1) ∧
      decodeBytes .locked 0x01#7 [] = .error (.notOneWord 0) ∧
      decodeBytes .locked 0x01#7 [0xD0#8, 0x0D#8, 0x00#8] = .error (.notOneWord 3) := ⟨rfl, rfl, rfl, rfl⟩

/-! ### Ill-formed terms -/

theorem test_ill_formed :
    Instr.wellFormed 0x01#7 (.lockedDrop 0xD00D#16) = false ∧ Instr.wellFormed 0x01#7 (.rsvd 0x7FFF#15) = false ∧
      Instr.wellFormed 0x01#7 (.foreign 0x01#7 0#8) = false ∧ Instr.wellFormed 0x01#7 (.notch 0x02#7 0#1 0#3 0#3) = false ∧
      Instr.wellFormed 0x01#7 (.commit 0x02#7 0#5) = false ∧ Instr.wellFormed 0x01#7 (.setCh0 0x00#7 0#5) = false ∧
      Instr.wellFormed 0x01#7 (.setCh1 0x40#7 0#5) = false ∧ Instr.wellFormed 0x01#7 (.setCh2 0x7E#7 0#5) = false := by
  decide
-- R8: no controller bit, two controller bits; D20's and W10's addresses are well formed
theorem test_device_addresses :
    DevAddr.wellFormed 0x40#7 = false ∧ DevAddr.wellFormed 0x03#7 = false ∧ DevAddr.wellFormed 0x01#7 = true ∧
      DevAddr.wellFormed 0x42#7 = true := by decide

/-! ### Commands -/

-- S1
theorem test_unlock :
    (liveAfter (executing 0x01#7 .locked 0xD00D#16)).map (·.sync) = some .unlocked ∧
      traceAfter (executing 0x01#7 .locked 0xD00D#16) = [.arm] := by decide
-- S2, R102: the receiver stays HELD
theorem test_locked_drop :
    (liveAfter (executing 0x01#7 .locked 0xFFFF#16)).map (fun v => (v.sync, v.rx, v.activity)) =
        some (.locked, .held, .backoff) ∧
      traceAfter (executing 0x01#7 .locked 0xFFFF#16) = [.backoffBegin] := by decide
-- S9: nv = [1, 2, 3]
theorem test_reset_state :
    (liveAfter (executing 0x01#7 .unlocked 0xFFFF#16)).map (fun v => (v.sync, v.att, v.pins.notch, v.pins.clk, v.pins.data)) =
      some (.locked, ⟨1#8, 2#8, 3#8⟩, ⟨.deasserted, .asserted, .undriven⟩, .low, .high) := by decide +kernel
-- S9: 8 line writes, then three reads, 3 · 34 line writes, and Arm
theorem test_reset_events :
    ((traceAfter (executing 0x01#7 .unlocked 0xFFFF#16)).drop 8).take 4 =
        [.nvRead .l0 1#8, .nvRead .l1 2#8, .nvRead .l2 3#8, .line (.en .l0 .asserted)] ∧
      (traceAfter (executing 0x01#7 .unlocked 0xFFFF#16)).length = 8 + 3 + 3 * 34 + 1 := by decide +kernel
-- S8, D2
theorem test_rsvd :
    (liveAfter (executing 0x01#7 .unlocked 0xFFFE#16)).map (·.att) = some ⟨5#8, 6#8, 7#8⟩ ∧
      traceAfter (executing 0x01#7 .unlocked 0xD00D#16) = [.arm] := by decide
-- W4, D15
theorem test_foreign :
    (liveAfter (executing 0x01#7 .unlocked 0x023F#16)).map (·.att) = some ⟨5#8, 6#8, 7#8⟩ ∧
      traceAfter (executing 0x01#7 .unlocked 0x023F#16) = [.arm] := by decide
-- W6, N5; N6: notch 1 closed
theorem test_notch :
    (liveAfter (executing 0x01#7 .unlocked 0x019B#16)).map (·.pins.notch) = some ⟨.deasserted, .deasserted, .undriven⟩ ∧
      traceAfter (executing 0x01#7 .unlocked 0x019B#16) =
        [.line (.notch .l0 .deasserted), .line (.notch .l1 .deasserted), .arm] ∧
      (liveAfter (executing 0x01#7 .unlocked 0x0199#16)).map (·.pins.notch) =
        some ⟨.deasserted, .asserted, .undriven⟩ := by decide
-- N9: a value bit without its select bit; S10: a RESET that lost bit 15; D12, N2: no select bit, no event
theorem test_notch_select :
    (liveAfter (executing 0x01#7 .unlocked 0x018C#16)).map (·.pins.notch) = some ⟨.asserted, .undriven, .undriven⟩ ∧
      (liveAfter (executing 0x01#7 .unlocked 0x7FFF#16)).map (·.pins.notch) =
        some ⟨.deasserted, .deasserted, .deasserted⟩ ∧
      traceAfter (executing 0x01#7 .unlocked 0x0187#16) = [.arm] := by decide
-- W5, W6b, D8
theorem test_set :
    (liveAfter (executing 0x01#7 .unlocked 0x013F#16)).map (·.att) = some ⟨5#8, 31#8, 7#8⟩ ∧
      (liveAfter (executing 0x01#7 .unlocked 0x0119#16)).map (·.att) = some ⟨25#8, 6#8, 7#8⟩ ∧
      (liveAfter (executing 0x01#7 .unlocked 0x0151#16)).map (fun v => (v.att, v.pins.data, v.pins.clk)) =
        some (⟨5#8, 6#8, 17#8⟩, .high, .low) := by decide +kernel
-- 2.4: the 34 events of Drive(1, 17), here from word 0x0131, up to the end of its first bit, and at the end
theorem test_set_events :
    (traceAfter (executing 0x01#7 .unlocked 0x0131#16)).take 5 =
        [.line (.en .l1 .asserted), .line (.clk .low), .line (.data .low), .line (.clk .high), .line (.clk .low)] ∧
      (traceAfter (executing 0x01#7 .unlocked 0x0131#16)).drop 29 =
        [.line (.clk .low), .line (.data .high), .line (.clk .high), .line (.clk .low), .line (.en .l1 .deasserted), .arm] := by
  decide +kernel
-- A2, A3, A5, A6: data at the eight rising edges
theorem test_transfers :
    risingSamples .l1 Pins.undriven (transferWrites .l1 17#8) = [.low, .low, .low, .high, .low, .low, .low, .high] ∧
      risingSamples .l2 Pins.undriven (transferWrites .l2 31#8) = [.low, .low, .low, .high, .high, .high, .high, .high] ∧
      risingSamples .l2 Pins.undriven (transferWrites .l2 0xFF#8) =
        [.high, .high, .high, .high, .high, .high, .high, .high] ∧
      risingSamples .l1 Pins.undriven (transferWrites .l1 40#8) =
        [.low, .low, .high, .low, .high, .low, .low, .low] := by decide +kernel
-- V1, D11: bits 4:0 are don't-care
theorem test_commit :
    recordAfter (executing 0x01#7 .unlocked 0x0160#16) = some ⟨5#8, 6#8, 7#8⟩ ∧
      recordAfter (executing 0x01#7 .unlocked 0x017F#16) = some ⟨5#8, 6#8, 7#8⟩ ∧
      traceAfter (executing 0x01#7 .unlocked 0x0160#16) =
        [.nvErase, .nvWrite .l0 5#8, .nvWrite .l1 6#8, .nvWrite .l2 7#8, .arm] := by decide

/-! ### Steps of the agents -/

-- M1, M2
theorem test_receive_and_fetch :
    (liveAfter (sleeping .locked [.word 0xABCD#16])).map (fun v => (v.mbox, v.ready, v.rx)) =
        some (some 0xABCD#16, true, .held) ∧
      phaseAfter { sleeping .locked [] with
        live := some { testVolatile .locked .sleep with mbox := some 0xABCD#16, ready := true } } =
        some (.exec 0xABCD#16) := by decide
-- M3, M4: a word sent while HELD is lost
theorem test_lost_word :
    liveAfter { executing 0x01#7 .locked 0#16 with inputs := [.word 0xABCD#16] } =
      some (testVolatile .locked (.exec 0#16)) := by decide
-- S6
theorem test_backoff_end :
    traceAfter { sleeping .locked [] with live := some (testVolatile .locked .backoff) } = [.backoffEnd, .arm] := by
  decide
-- M5: nv = [7, 8, 9]
theorem test_power_on :
    (liveAfter (switchedOff [.powerOn])).map (fun v => (v.sync, v.att, v.pins.clk, v.pins.data)) =
        some (.locked, ⟨7#8, 8#8, 9#8⟩, .low, .high) ∧
      (liveAfter (switchedOff [.powerOn])).map (fun v => (v.rx, v.ready, v.mbox)) = some (.armed, false, none) := by
  decide +kernel
-- M6
theorem test_power_loss :
    phaseAfter (sleeping .unlocked [.powerLoss]) = some .off ∧
      recordAfter (sleeping .unlocked [.powerLoss]) = some ⟨1#8, 2#8, 3#8⟩ := by decide
-- V3: a COMMIT cut after NvErase, NvWrite(0, ·); any three bytes stand in the record
theorem test_torn_commit :
    recordAfter { executing 0x01#7 .unlocked 0x0160#16 with inputs := [.powerLossIn 2 ⟨0x11#8, 0x22#8, 0x33#8⟩] } =
        some ⟨0x11#8, 0x22#8, 0x33#8⟩ ∧
      traceAfter { executing 0x01#7 .unlocked 0x0160#16 with inputs := [.powerLossIn 2 ⟨0x11#8, 0x22#8, 0x33#8⟩] } =
        [.nvErase, .nvWrite .l0 5#8, .powerLoss] := by decide
-- R81, P1, P2: the words of the statements; R81: SET a, 3, v is refused; R82
theorem test_assembler :
    assemble (.set 1 2 17) = some 0x0151#16 ∧ assemble (Asm.commitPlain 1) = some 0x0160#16 ∧
      assemble (Asm.notchPlain 0x42 7 0) = some 0x42B8#16 ∧ assemble (.notch 1 0 0 1) = some 0x01C0#16 ∧
      assemble .unlock = some 0xD00D#16 ∧ assemble .reset = some 0xFFFF#16 ∧ assemble (.word 0x7FFF) = some 0x7FFF#16 ∧
      assemble (.set 1 3 0) = none ∧ assemble (.set 1 0 32) = none ∧
      resync = [0xFFFF#16, 0xFFFF#16, 0xD00D#16, 0xD00D#16] := by decide
-- P3 with other settings (a device here holds 5, 6, 7): A (0x01) and B (0x41) take the first word, all three the second, C (0x42)
-- alone the third
theorem test_fleet_addresses :
    [0x01#7, 0x41#7, 0x42#7].map (fun d => (liveAfter (executing d .unlocked 0x0109#16)).map (·.att.l0)) =
      [some 9#8, some 9#8, some 5#8] ∧
    [0x01#7, 0x41#7, 0x42#7].map (fun d => (liveAfter (executing d .unlocked 0x412A#16)).map (·.att.l1)) =
      [some 10#8, some 10#8, some 10#8] ∧
    [0x01#7, 0x41#7, 0x42#7].map (fun d => (liveAfter (executing d .unlocked 0x0249#16)).map (·.att.l2)) =
      [some 7#8, some 7#8, some 9#8] := by decide +kernel
-- R9: an ASSERTED line of either polarity
theorem test_polarity :
    Switch.electrical .activeHigh .asserted = .high ∧ Switch.electrical .activeLow .asserted = .low ∧
      Switch.electrical .activeLow .undriven = .undriven := by decide

/-! ### The host's words -/

theorem test_table_words :
    decodeTableWord 16 0xD00D = some .unlock ∧ decodeTableWord 16 0xFFFF = some .reset ∧
      decodeTableWord 16 0x8000 = some (.rsvd 0#15) ∧ decodeTableWord 16 0x0000 = some (.foreign 0#7 0#8) ∧
      decodeTableWord 16 0x0180 = some (.notch 1#7 0#1 0#3 0#3) ∧ decodeTableWord 16 0x0160 = some (.commit 1#7 0#5) ∧
      decodeTableWord 16 0x0100 = some (.setCh0 1#7 0#5) ∧ decodeTableWord 16 0x0120 = some (.setCh1 1#7 0#5) ∧
      decodeTableWord 16 0x0140 = some (.setCh2 1#7 0#5) ∧ decodeTableWord 16 0x10000 = none := by decide

/-- A placed word is the first command after reset, though the parameters of the reset state are unknown. -/
theorem test_placed_word_runs :
    (∃ t, step (State.reset.withFetchWord 16 0xD00D) = .next t) ∧ (∃ t, step (State.reset.withFetchWord 16 0x7FFF) = .next t) ∧
      ∃ t, step (State.reset.withFetchWord 16 0x0160) = .next t := ⟨⟨_, rfl⟩, ⟨_, rfl⟩, ⟨_, rfl⟩⟩

/-! ### Witnesses: a state and operands that meet the hypotheses of each statement -/

-- every row, operands at the ends of their ranges
theorem witness_DecodeOfEncodeIsIdentity :
    Instr.wellFormed 0x01#7 .unlock = true ∧ Instr.wellFormed 0x01#7 (.lockedDrop 0xFFFF#16) = true ∧
      Instr.wellFormed 0x01#7 .reset = true ∧ Instr.wellFormed 0x01#7 (.rsvd 0x7FFE#15) = true ∧
      Instr.wellFormed 0x01#7 (.foreign 0x7E#7 0xFF#8) = true ∧
      Instr.wellFormed 0x01#7 (.notch 0x7F#7 1#1 7#3 7#3) = true ∧ Instr.wellFormed 0x01#7 (.commit 0x01#7 31#5) = true ∧
      Instr.wellFormed 0x01#7 (.setCh0 0x01#7 0#5) = true ∧ Instr.wellFormed 0x01#7 (.setCh1 0x7F#7 31#5) = true ∧
      Instr.wellFormed 0x42#7 (.setCh2 0x40#7 31#5) = true := by decide

-- W4 on one side, S10 on the other
theorem witness_ForeignExactlyWhenNoMatch :
    (0x023F#16).getLsbD 15 = false ∧ (0x023F#16).extractLsb' 8 7 &&& 0x01#7 = 0#7 ∧
      (0x7FFF#16).getLsbD 15 = false ∧ (0x7FFF#16).extractLsb' 8 7 &&& 0x01#7 ≠ 0#7 := by decide

-- D18: the group bit alone; W10: a controller bit across the groups; D20: neither
theorem witness_AddressMatchByGroupAndController :
    (Word.addr 0x4011#16 = 1#1 ++ 0#6 ∧ Word.addrMatch 0x4011#16 (1#1 ++ 2#6) ≠ 0#7) ∧
      (Word.addr 0x0211#16 = 0#1 ++ 2#6 ∧ Word.addrMatch 0x0211#16 (1#1 ++ 2#6) ≠ 0#7) ∧
      (Word.addr 0x0111#16 = 0#1 ++ 1#6 ∧ Word.addrMatch 0x0111#16 (1#1 ++ 2#6) = 0#7) := by decide

-- one pair of different words for each clause
theorem witness_DontCareBitsHaveNoEffect :
    (0x0000#16 ≠ 0xD00D#16 ∧ 0xFFFF#16 ≠ 0xD00D#16) ∧
      (Word.special 0x8000#16 = true ∧ Word.special 0xFFFE#16 = true) ∧
      (Word.special 0x0111#16 = false ∧ Word.special 0x7F11#16 = false ∧
        Word.addrMatch 0x0111#16 0x01#7 = Word.addrMatch 0x7F11#16 0x01#7 ∧
        Word.payload 0x0111#16 = Word.payload 0x7F11#16) ∧
      (Word.special 0x019B#16 = false ∧ Word.notchsel 0x019B#16 = true ∧ 0x019B#16 &&& 0xFFBF#16 = 0x01DB#16 &&& 0xFFBF#16) ∧
      (Word.special 0x0160#16 = false ∧ Word.notchsel 0x0160#16 = false ∧ Word.ch 0x0160#16 = 3#2 ∧
        0x0160#16 &&& 0xFFE0#16 = 0x017F#16 &&& 0xFFE0#16) := by decide

theorem witness_PlacedWordIsRun : (65535 : Nat) < 65536 ∧ (0 : Nat) < 65536 := by decide

/-- A device that meets the one hypothesis, a powered device, of the statements on UNLOCK, LOCKED_DROP, RESET, RSVD, FOREIGN, NOTCH,
SET, and of `SetTwiceIsIdempotent`. -/
theorem witness_UnlockEntersUnlocked :
    (executing 0x01#7 .locked 0xD00D#16).live = some (testVolatile .locked (.exec 0xD00D#16)) := rfl
theorem witness_LockedDropBeginsBackoff :
    (0xFFFF#16 ≠ 0xD00D#16 ∧ 0x0000#16 ≠ 0xD00D#16) ∧
      (executing 0x01#7 .locked 0xFFFF#16).live = some (testVolatile .locked (.exec 0xFFFF#16)) := ⟨by decide, rfl⟩
theorem witness_ResetReloadsAndDrives :
    (executing 0x01#7 .unlocked 0xFFFF#16).live = some (testVolatile .unlocked (.exec 0xFFFF#16)) := rfl
theorem witness_IgnoredCommandsOnlyRearm :
    ((0x8000#16).getLsbD 15 = true ∧ 0x8000#16 ≠ 0xFFFF#16 ∧ (0xFFFE#16).getLsbD 15 = true ∧ 0xFFFE#16 ≠ 0xFFFF#16) ∧
      ((0x023F#16).getLsbD 15 = false ∧ (0x023F#16).extractLsb' 8 7 &&& 0x01#7 = 0#7) ∧
      (executing 0x01#7 .unlocked 0x8000#16).live = some (testVolatile .unlocked (.exec 0x8000#16)) :=
  ⟨by decide, by decide, rfl⟩
theorem witness_NotchDrivesSelectedLines :
    ((0x7FFF#16).getLsbD 15 = false ∧ (0x7FFF#16).extractLsb' 8 7 &&& 0x01#7 ≠ 0#7 ∧ (0x7FFF#16).getLsbD 7 = true) ∧
      (executing 0x01#7 .unlocked 0x019B#16).live = some (testVolatile .unlocked (.exec 0x019B#16)) := ⟨by decide, rfl⟩
theorem witness_SetStoresAndDrives :
    (∀ x ∈ [(0x0100#16, Lane.l0), (0x7F3F#16, Lane.l1), (0x0151#16, Lane.l2)], x.1.getLsbD 15 = false ∧
        x.1.extractLsb' 8 7 &&& 0x01#7 ≠ 0#7 ∧ x.1.getLsbD 7 = false ∧ (x.1.extractLsb' 5 2).toNat = x.2.idx) ∧
      (executing 0x01#7 .unlocked 0x013F#16).live = some (testVolatile .unlocked (.exec 0x013F#16)) := ⟨by decide, rfl⟩
theorem witness_SetTwiceIsIdempotent :
    (executing 0x01#7 .unlocked 0x0151#16).live = some (testVolatile .unlocked (.exec 0x0151#16)) := rfl

/-- A device in COMMIT whose record has been written before: two of its bytes differ from the first contents 1, 2, 3. -/
def committing (inputs : List Input) : State :=
  { executing 0x01#7 .unlocked 0x017F#16 with nv := [(0, 9#8), (2, 0xFF#8)], inputs := inputs }

theorem witness_CommitWritesTheRecord :
    ((0x017F#16).getLsbD 15 = false ∧ (0x017F#16).extractLsb' 8 7 &&& 0x01#7 ≠ 0#7 ∧ (0x017F#16).getLsbD 7 = false ∧
        (0x017F#16).extractLsb' 5 2 = 3#2) ∧
      (committing []).MemoryCanonical ∧ (committing []).live = some (testVolatile .unlocked (.exec 0x017F#16)) :=
  ⟨by decide, rfl, rfl⟩
theorem witness_CommitThenLoadRestores :
    (committing []).MemoryCanonical ∧ (committing []).live = some (testVolatile .unlocked (.exec 0x017F#16)) := ⟨rfl, rfl⟩
theorem witness_SetCommitResetRoundTrip :
    (committing []).MemoryCanonical ∧ (committing []).live = some (testVolatile .unlocked (.exec 0x017F#16)) := ⟨rfl, rfl⟩

theorem witness_CommandsNeedPower : (switchedOff []).live = none := rfl

theorem witness_WriteNeedsErase :
    ((executing 0x01#7 .unlocked 0x0160#16).begin (testVolatile .unlocked (.exec 0x0160#16))).store = .idle := rfl

-- each of the four commands, with the next state it has
theorem witness_FrameOfSilentCommands :
    ∃ t1 t2 t3 t4, exec .unlock (executing 0x01#7 .locked 0xD00D#16) = .next t1 ∧
      exec (.lockedDrop 0xFFFF#16) (executing 0x01#7 .locked 0xFFFF#16) = .next t2 ∧
      exec (.rsvd 0x7FFE#15) (executing 0x01#7 .unlocked 0xFFFE#16) = .next t3 ∧
      exec (.foreign 0x02#7 0x3F#8) (executing 0x01#7 .unlocked 0x023F#16) = .next t4 := ⟨_, _, _, _, rfl, rfl, rfl, rfl⟩
theorem witness_FrameOfNotch :
    ∃ t, exec (.notch 0x01#7 0#1 3#3 3#3) (executing 0x01#7 .unlocked 0x019B#16) = .next t ∧ (3#3).getLsbD 2 = false :=
  ⟨_, rfl, rfl⟩
theorem witness_FrameOfSet :
    ∃ t, exec (setCommand .l1 0x01#7 31#5) (executing 0x01#7 .unlocked 0x013F#16) = .next t ∧ Lane.l0 ≠ Lane.l1 :=
  ⟨_, rfl, by decide⟩
theorem witness_FrameOfCommit : ∃ t, exec (.commit 0x01#7 31#5) (committing []) = .next t := ⟨_, rfl⟩
theorem witness_FrameOfReset : ∃ t, exec .reset (executing 0x01#7 .unlocked 0xFFFF#16) = .next t := ⟨_, rfl⟩

-- both ways of nothing happening outside
theorem witness_StepRunsTheDecodedCommand :
    (executing 0x01#7 .unlocked 0x0151#16).CoreMoves [] ∧
      { executing 0x01#7 .unlocked 0x0151#16 with inputs := [.run, .powerLoss] }.CoreMoves [.powerLoss] :=
  ⟨.inr ⟨rfl, rfl⟩, .inl rfl⟩

theorem witness_ReceiverCapturesTheWord :
    (sleeping .locked [.word 0xABCD#16]).live = some { testVolatile .locked .sleep with rx := .armed } ∧
      (sleeping .locked [.word 0xABCD#16]).inputs = [.word 0xABCD#16] := ⟨rfl, rfl⟩

theorem witness_WordToHeldOrOffDeviceIsLost :
    ((switchedOff [.word 1#16]).live = none ∧ (switchedOff [.word 1#16]).inputs = [.word 1#16]) ∧
      (executing 0x01#7 .locked 0#16).live = some (testVolatile .locked (.exec 0#16)) ∧
      (testVolatile .locked (.exec 0#16)).rx = .held := ⟨⟨rfl, rfl⟩, rfl, rfl⟩

/-- A device asleep with a word in its mailbox. -/
def pending (mbox : Option Word) : State :=
  { sleeping .locked [] with live := some { testVolatile .locked .sleep with mbox := mbox, ready := true } }

theorem witness_FetchTakesTheMailbox :
    (pending (some 0xABCD#16)).live =
        some { testVolatile .locked .sleep with mbox := some 0xABCD#16, ready := true } ∧
      (pending (some 0xABCD#16)).CoreMoves [] := ⟨rfl, .inr ⟨rfl, rfl⟩⟩
theorem witness_FetchOfNoValueFaults :
    (pending none).live = some { testVolatile .locked .sleep with mbox := none, ready := true } ∧
      (pending none).CoreMoves [] := ⟨rfl, .inr ⟨rfl, rfl⟩⟩

/-- A device in the Locked-mismatch pause. -/
def backingOff : State := { sleeping .locked [.run] with live := some (testVolatile .locked .backoff) }

theorem witness_BackoffEndRearms :
    backingOff.live = some (testVolatile .locked .backoff) ∧ backingOff.CoreMoves [] := ⟨rfl, .inl rfl⟩

theorem witness_IdleDeviceStaysAsItIs :
    ((switchedOff [.run]).CoreMoves [] ∧ (switchedOff [.run]).live = none) ∧ (sleeping .locked []).CoreMoves [] ∧
      (sleeping .locked []).live = some { testVolatile .locked .sleep with rx := .armed } :=
  ⟨⟨.inl rfl, rfl⟩, .inr ⟨rfl, rfl⟩, rfl⟩

theorem witness_PowerOnBoots :
    (switchedOff [.powerOn]).live = none ∧ (switchedOff [.powerOn]).inputs = [.powerOn] := ⟨rfl, rfl⟩

-- a cut before the first event and one after the last
theorem witness_PowerLossOutsideCoreSteps :
    (sleeping .unlocked [.powerLoss]).inputs = [.powerLoss] ∧
      (switchedOff [.powerLossIn 0 ⟨0#8, 0#8, 0#8⟩]).live = none ∧
      (switchedOff [.powerLossIn 115 ⟨0#8, 0#8, 0#8⟩]).live = none ∧
      (bootEvents (testParams 0x01#7).gpioPoweron (switchedOff []).nvRecord).length = 115 := by decide +kernel

-- a SET cut after its tenth event, and a backoff end cut before its first
theorem witness_PowerLossCutsACoreStep :
    (∃ t, State.coreStep (executing 0x01#7 .unlocked 0x0151#16) = .next t) ∧
      (∀ a x, decode .unlocked 0x01#7 0x0151#16 ≠ .commit a x) ∧
      { executing 0x01#7 .unlocked 0x0151#16 with inputs := [.powerLossIn 10 ⟨0#8, 0#8, 0#8⟩] }.inputs =
        [.powerLossIn 10 ⟨0#8, 0#8, 0#8⟩] ∧
      (∃ t, State.coreStep backingOff = .next t) ∧ ∀ w, (testVolatile .locked .backoff).activity ≠ .exec w :=
  ⟨⟨_, rfl⟩, by decide, rfl, ⟨_, rfl⟩, by simp [testVolatile]⟩

-- V4 and V3
theorem witness_PowerLossInCommitDrawsTheRecord :
    decode .unlocked 0x01#7 0x017F#16 = .commit 0x01#7 31#5 ∧
      (committing [.powerLossIn 0 ⟨0xFF#8, 0#8, 1#8⟩]).MemoryCanonical ∧
      (committing [.powerLossIn 0 ⟨0xFF#8, 0#8, 1#8⟩]).live = some (testVolatile .unlocked (.exec 0x017F#16)) ∧
      (committing [.powerLossIn 2 ⟨0xFF#8, 0#8, 1#8⟩]).inputs = [.powerLossIn 2 ⟨0xFF#8, 0#8, 1#8⟩] :=
  ⟨by decide, rfl, rfl, rfl⟩

-- the clause on a power loss
theorem witness_ResetStateIsTheTable :
    (sleeping .unlocked []).live = some { testVolatile .unlocked .sleep with rx := .armed } := rfl

theorem witness_ContextsAgreeKept :
    (executing 0x01#7 .unlocked 0x0151#16).ContextsAgree ∧ ∃ t, step (executing 0x01#7 .unlocked 0x0151#16) = .next t := by
  refine ⟨?_, _, rfl⟩
  rintro v ⟨⟩
  simp [Volatile.contextsAgree, testVolatile]

/-- A LOCKED device just booted with the record 7, 8, 9, its events left out. -/
def settled (w : Word) : State :=
  { switchedOff [] with
    live := some { Volatile.afterBoot (testParams 0x01#7).gpioPoweron ⟨7#8, 8#8, 9#8⟩ with
      rx := .held, activity := .exec w } }

theorem witness_LockedSettledKept :
    (settled 0xD00D#16).LockedSettled ∧ ∃ t, step (settled 0xD00D#16) = .next t := by
  refine ⟨?_, _, rfl⟩
  rintro v ⟨⟩ -
  exact ⟨fun c => by cases c <;> rfl, rfl, fun c => by cases c <;> rfl, rfl, rfl⟩

theorem witness_MemoryCanonicalKept :
    (committing []).MemoryCanonical ∧ (committing []).nv ≠ [] ∧ ∃ t, step (committing []) = .next t :=
  ⟨rfl, by decide, _, rfl⟩

/-- A device that has been on and, after a cut transfer, is off again, to which `inputs` happens. -/
def offAgain (inputs : List Input) : State :=
  { switchedOff inputs with trace := [.powerOn, .line (.en .l0 .asserted), .line (.clk .low), .powerLoss] }

theorem witness_TraceShowsLinesKept :
    (offAgain [.powerOn]).TraceShowsLines ∧ ∃ t, step (offAgain [.powerOn]) = .next t := ⟨rfl, _, rfl⟩

theorem witness_EnablesExclusiveKept :
    (offAgain [.powerLossIn 20 ⟨0#8, 0#8, 0#8⟩]).EnablesExclusive ∧
      ∃ t, step (offAgain [.powerLossIn 20 ⟨0#8, 0#8, 0#8⟩]) = .next t := by
  refine ⟨⟨rfl, fun c => by cases c <;> decide, fun k => ?_⟩, _, rfl⟩
  rcases k with _ | _ | _ | _ | k <;> intro c d <;> cases c <;> cases d <;>
    simp [offAgain, linesOfTrace, Pins.afterEvent, Pins.write, Pins.undriven, Triple.get, Triple.set, Triple.const]

theorem witness_StepNeverStops : (pending (some 0xABCD#16)).MailboxFilled := by
  rintro v ⟨⟩ -
  simp

-- settings and draws at 31
theorem witness_SettingsInRangeKept :
    let s : State := { executing 0x01#7 .unlocked 0x0160#16 with inputs := [.powerLossIn 2 ⟨31#8, 0#8, 31#8⟩] }
    s.MemoryCanonical ∧ (Input.powerLossIn 2 ⟨31#8, 0#8, 31#8⟩).drawsInRange ∧ s.SettingsInRange ∧
      ∃ t, step s = .next t := by
  refine ⟨rfl, fun c => ?_, ⟨fun c => ?_, ?_⟩, _, rfl⟩
  · cases c <;> simp [inRange, Triple.get]
  · cases c <;> simp [inRange, State.nvByte, executing, testParams, Memory.read, Triple.get]
  · rintro v ⟨⟩ c
    cases c <;> simp [inRange, testVolatile, Triple.get]

theorem witness_ParametersAndPastAreKept : ∃ t, step (executing 0x01#7 .unlocked 0x0160#16) = .next t := ⟨_, rfl⟩

-- UNLOCK and RESET
theorem witness_ModeChangesOnlyByUnlockAndReset :
    (∃ t u, step (executing 0x01#7 .locked 0xD00D#16) = .next t ∧ t.live = some u ∧ u.sync ≠ .locked) ∧
      ∃ t u, step (executing 0x01#7 .unlocked 0xFFFF#16) = .next t ∧ t.live = some u ∧ u.sync ≠ .unlocked :=
  ⟨⟨_, _, rfl, rfl, by decide⟩, _, _, rfl, rfl, by decide⟩

-- a COMMIT that completes and one that is cut short
theorem witness_RecordChangesOnlyByCommit :
    (∃ t, step (committing []) = .next t ∧ t.nvByte .l0 ≠ (committing []).nvByte .l0) ∧
      ∃ t, step (committing [.powerLossIn 0 ⟨0#8, 0#8, 0#8⟩]) = .next t ∧
        t.nvByte .l2 ≠ (committing []).nvByte .l2 :=
  ⟨⟨_, rfl, by decide⟩, _, rfl, by decide⟩

-- one device for each of the four steps
theorem witness_AtMostOneStepEnabled :
    ((sleeping .locked []).ContextsAgree ∧
        (sleeping .locked []).live = some { testVolatile .locked .sleep with rx := .armed }) ∧
      ((pending (some 0xABCD#16)).ContextsAgree ∧
        (pending (some 0xABCD#16)).live = some { testVolatile .locked .sleep with mbox := some 0xABCD#16, ready := true }) ∧
      ((executing 0x01#7 .locked 0#16).ContextsAgree ∧
        (executing 0x01#7 .locked 0#16).live = some (testVolatile .locked (.exec 0#16))) ∧
      (backingOff.ContextsAgree ∧ backingOff.live = some (testVolatile .locked .backoff)) := by
  refine ⟨⟨?_, rfl⟩, ⟨?_, rfl⟩, ⟨?_, rfl⟩, ?_, rfl⟩ <;> rintro v ⟨⟩ <;> simp [Volatile.contextsAgree, testVolatile]

-- W2's sample word 0xD00C
theorem witness_LockedIsolation :
    (executing 0x01#7 .locked 0xD00C#16).live = some (testVolatile .locked (.exec 0xD00C#16)) ∧
      0xD00C#16 ≠ 0xD00D#16 ∧ (executing 0x01#7 .locked 0xD00C#16).CoreMoves [] :=
  ⟨rfl, by decide, .inr ⟨rfl, rfl⟩⟩

-- W4
theorem witness_AddressIsolation :
    (executing 0x01#7 .unlocked 0x023F#16).live = some (testVolatile .unlocked (.exec 0x023F#16)) ∧
      (0x023F#16).getLsbD 15 = false ∧ (0x023F#16).extractLsb' 8 7 &&& 0x01#7 = 0#7 ∧
      (executing 0x01#7 .unlocked 0x023F#16).CoreMoves [] := ⟨rfl, by decide, by decide, .inr ⟨rfl, rfl⟩⟩

theorem witness_DeliveredWordIsFetched :
    (sleeping .locked [.word 0xABCD#16, .run]).live = some { testVolatile .locked .sleep with rx := .armed } ∧
      (sleeping .locked [.word 0xABCD#16, .run]).inputs = [.word 0xABCD#16, .run] := ⟨rfl, rfl⟩

-- from either mode
theorem witness_ResyncReachesUnlocked :
    (sleeping .locked (resync.flatMap fun w => [.word w, .run, .run, .run])).Quiescent ∧
      (sleeping .unlocked (resync.flatMap fun w => [.word w, .run, .run, .run])).Quiescent :=
  ⟨⟨_, rfl, rfl, rfl, rfl⟩, _, rfl, rfl, rfl, rfl⟩

theorem witness_ResetAndPowerOnAgree :
    (executing 0x01#7 .unlocked 0xFFFF#16).live = some (testVolatile .unlocked (.exec 0xFFFF#16)) ∧
      { executing 0x01#7 .unlocked 0xFFFF#16 with live := none }.live = none := ⟨rfl, rfl⟩

-- device 0 steps, device 1 does not; device 0 is ARMED, device 1 is not
theorem witness_FleetDevicesAreIndependent :
    (∃ f, fleetStep [sleeping .locked [.word 1#16], executing 0x01#7 .locked 0#16] 0 = .next f) ∧ 1 ≠ 0 ∧
      [sleeping .locked [], executing 0x01#7 .locked 0#16][0]? = some (sleeping .locked []) ∧
      (sleeping .locked []).live = some { testVolatile .locked .sleep with rx := .armed } ∧
      (executing 0x01#7 .locked 0#16).live = some (testVolatile .locked (.exec 0#16)) := by
  refine ⟨⟨_, rfl⟩, by decide, rfl, rfl, rfl⟩

end Sys2Proof.Tests
end

section
/-! SUPPORT. The proofs of the statements about the state and what every step keeps (`10_state.md`). -/

namespace Sys2Proof.Machine

/-! ### Commands: when they answer, and what they leave of flag, mailbox and sequencer -/

/-- Every command is an action on a powered device that cannot stop (R100, R175). -/
theorem exec_eq_command (i : Instr) : ∃ f : Running → Running, ∀ s, exec i s = s.command f := by
  cases i with
  | unlock => exact ⟨_, exec_unlock⟩
  | lockedDrop w => exact ⟨_, exec_lockedDrop w⟩
  | reset => exact ⟨_, exec_reset⟩
  | rsvd x => exact ⟨_, exec_rsvd x⟩
  | foreign a p => exact ⟨_, exec_foreign a p⟩
  | notch a x sel val => exact ⟨_, exec_notch a x sel val⟩
  | commit a x => exact ⟨_, fun s => by simp only [exec_commit, Running.commit_eq, State.command]; rfl⟩
  | setCh0 a d => exact ⟨_, exec_setCommand .l0 a d⟩
  | setCh1 a d => exact ⟨_, exec_setCommand .l1 a d⟩
  | setCh2 a d => exact ⟨_, exec_setCommand .l2 a d⟩

/-- A command on a powered device ends. -/
theorem exec_of_live {s : State} {v : Volatile} (h : s.live = some v) (i : Instr) : ∃ t, exec i s = .next t := by
  obtain ⟨f, hf⟩ := exec_eq_command i
  exact ⟨_, (hf s).trans (State.command_of_live h f)⟩

/-- No command writes the flag or the mailbox; each ends with the re-arm, or in BACKOFF with the receiver as it was (R100, R102). -/
theorem exec_sequencer {i : Instr} {s t : State} (h : exec i s = .next t) :
    ∃ v u, s.live = some v ∧ t.live = some u ∧ u.ready = v.ready ∧ u.mbox = v.mbox ∧
      ((u.rx = .armed ∧ u.activity = .sleep) ∨ (u.rx = v.rx ∧ u.activity = .backoff)) := by
  obtain ⟨v, hv, hc⟩ := exec_cases h
  refine ⟨v, ?_⟩
  rcases hc with ⟨-, rfl⟩ | ⟨-, rfl⟩ | ⟨-, rfl⟩ | ⟨-, rfl⟩ | ⟨_, _, _, _, -, rfl⟩ | ⟨_, _, _, -, rfl⟩ | ⟨_, _, -, rfl⟩
  · exact ⟨_, hv, rfl, rfl, rfl, .inl ⟨rfl, rfl⟩⟩
  · exact ⟨_, hv, rfl, rfl, rfl, .inr ⟨rfl, rfl⟩⟩
  all_goals exact ⟨_, hv, rfl, rfl, rfl, .inl ⟨rfl, rfl⟩⟩

/-! ### The two contexts -/

/-- What a device may be on which the three invariants of R34 hold, and nothing else. -/
theorem Volatile.contextsAgree_iff {v : Volatile} :
    v.contextsAgree ↔
      (v.rx = .armed ∧ v.ready = false ∧ v.activity = .sleep) ∨
        (v.rx = .held ∧ (v.ready = true → v.activity = .sleep)) := by
  unfold Volatile.contextsAgree
  cases v.rx <;> cases v.ready <;> simp

theorem State.contextsAgree_of_live {s : State} {u : Volatile} (h : s.live = some u) (hu : u.contextsAgree) :
    s.ContextsAgree := by
  intro v hv
  cases h.symm.trans hv
  exact hu

/-- In EXEC and in BACKOFF the receiver is HELD and nothing is pending (R34). -/
theorem Volatile.contextsAgree.busy {v : Volatile} (h : v.contextsAgree) (ha : v.activity ≠ .sleep) :
    v.rx = .held ∧ v.ready = false := by
  rcases Volatile.contextsAgree_iff.1 h with ⟨-, -, hs⟩ | ⟨hr, hs⟩
  · exact absurd hs ha
  · exact ⟨hr, Bool.eq_false_iff.2 fun hready => ha (hs hready)⟩

theorem contextsAgree_coreStep {s t : State} (hs : s.ContextsAgree) (h : s.coreStep = .next t) : t.ContextsAgree := by
  rcases State.coreStep_cases h with
    rfl | ⟨v, w, hv, -, hready, -, rfl⟩ | ⟨v, w, hv, ha, he⟩ | ⟨v, hv, ha, rfl⟩
  · exact hs
  · obtain ⟨-, hpending, -⟩ := hs v hv
    obtain ⟨hrx, -⟩ := hpending hready
    exact State.contextsAgree_of_live rfl (Volatile.contextsAgree_iff.2 (.inr ⟨hrx, by simp⟩))
  · obtain ⟨v', u, hv', hu, hready, -, hend⟩ := exec_sequencer he
    cases hv.symm.trans hv'
    obtain ⟨hheld, hclear⟩ := (hs v hv).busy (by simp [ha])
    refine State.contextsAgree_of_live hu (Volatile.contextsAgree_iff.2 ?_)
    rcases hend with ⟨hrx, hact⟩ | ⟨hrx, hact⟩
    · exact .inl ⟨hrx, hready.trans hclear, hact⟩
    · exact .inr ⟨hrx.trans hheld, by simp [hready, hclear]⟩
  · obtain ⟨-, hclear⟩ := (hs v hv).busy (by simp [ha])
    exact State.contextsAgree_of_live rfl (Volatile.contextsAgree_iff.2 (.inl ⟨rfl, hclear, rfl⟩))

/-- Settles O39: an ARMED receiver belongs to a sleeping core with the flag clear, whatever moves. -/
theorem contextsAgreeKept : Obligations.ContextsAgreeKept := by
  intro s t hs h
  refine step_keeps (P := State.ContextsAgree) (fun _ _ h => h) (fun _ _ => contextsAgree_coreStep) ?receive ?boot ?loss
    ?cut hs h
  case receive =>
    intro s v w hs hv hrx
    obtain ⟨-, -, harmed⟩ := hs v hv
    obtain ⟨-, hsleep⟩ := harmed hrx
    exact State.contextsAgree_of_live rfl (Volatile.contextsAgree_iff.2 (.inr ⟨rfl, fun _ => hsleep⟩))
  case boot =>
    intro s _ _
    rw [State.boot_eq]
    exact State.contextsAgree_of_live rfl (Volatile.contextsAgree_iff.2 (.inl ⟨rfl, rfl, rfl⟩))
  case loss => rintro s v - - u ⟨⟩
  case cut => rintro s k draw - u ⟨⟩

/-! ### The lines and the trace -/

/-- `t` continues `s`: the parameters are the same, and the trace of `t` has beyond that of `s` events that take the lines of `s`
to those of `t` (R28, R33). -/
def State.Continues (s t : State) : Prop :=
  t.params = s.params ∧ ∃ es, t.trace = s.trace ++ es ∧ es.foldl Pins.afterEvent s.pins = t.pins

theorem State.Continues.refl (s : State) : s.Continues s := ⟨rfl, [], by simp⟩

theorem State.Continues.trans {s t u : State} (hst : s.Continues t) (htu : t.Continues u) : s.Continues u := by
  obtain ⟨hp, es, htr, hpins⟩ := hst
  obtain ⟨hp', fs, htr', hpins'⟩ := htu
  exact ⟨hp'.trans hp, es ++ fs, by simp [htr', htr], by rw [List.foldl_append, hpins, hpins']⟩

/-- The trace of a state that continues another shows its lines too. -/
theorem State.Continues.traceShowsLines {s t : State} (h : s.Continues t) (hs : s.TraceShowsLines) :
    t.TraceShowsLines := by
  obtain ⟨-, es, htr, hpins⟩ := h
  rw [State.TraceShowsLines, htr, linesOfTrace_append, hs, hpins]

theorem State.pins_of_live {s : State} {v : Volatile} (h : s.live = some v) : s.pins = v.pins := by
  simp only [State.pins, h]

theorem State.pins_off {s : State} (h : s.live = none) : s.pins = Pins.undriven := by
  simp only [State.pins, h]

/-- A step of a powered device that leaves it powered. -/
theorem State.continues_of_live {s t : State} {v u : Volatile} (hv : s.live = some v) (hu : t.live = some u)
    (hp : t.params = s.params) (es : List Event) (htr : t.trace = s.trace ++ es)
    (hpins : es.foldl Pins.afterEvent v.pins = u.pins) : s.Continues t :=
  ⟨hp, es, htr, by rw [State.pins_of_live hv, State.pins_of_live hu, hpins]⟩

/-- Whatever was emitted before it, a power loss leaves every line undriven (R232). -/
theorem State.continues_goOff (s : State) (es : List Event) (nv : Memory) : s.Continues (s.goOff es nv) :=
  ⟨rfl, es ++ [.powerLoss], by simp, by rw [List.foldl_append]; rfl⟩

/-- The events of a restore, a load and a drive of the three settings, on the lines (R103, R231). -/
theorem foldl_afterEvent_restore (g : GpioPoweron) (a : Triple Byte) (p : Pins) :
    (lineEvents (gpioDefaultWrites g) ++ loadEvents a ++ driveAllEvents a ++ [Event.arm]).foldl Pins.afterEvent p =
      ⟨g.notch, bitWire (a.l2.getLsbD 0), .low, Triple.const .deasserted⟩ := by
  simp only [List.foldl_append, foldl_afterEvent_lineEvents, foldl_afterEvent_loadEvents,
    foldl_afterEvent_driveAllEvents, Pins.writeAll_gpioDefaults]
  rfl

/-- The events of a list of line writes and the re-arm, on the lines. -/
theorem foldl_afterEvent_writes_arm (ws : List LineWrite) (p : Pins) :
    (lineEvents ws ++ [Event.arm]).foldl Pins.afterEvent p = p.writeAll ws := by
  rw [List.foldl_append, foldl_afterEvent_lineEvents]
  rfl

theorem State.continues_exec {i : Instr} {s t : State} (h : exec i s = .next t) : s.Continues t := by
  obtain ⟨v, hv, hc⟩ := exec_cases h
  rcases hc with ⟨-, rfl⟩ | ⟨-, rfl⟩ | ⟨-, rfl⟩ | ⟨-, rfl⟩ | ⟨_, _, _, _, -, rfl⟩ | ⟨_, _, _, -, rfl⟩ | ⟨_, _, -, rfl⟩
  · exact State.continues_of_live hv rfl rfl _ rfl rfl
  · exact State.continues_of_live hv rfl rfl _ rfl rfl
  · exact State.continues_of_live hv rfl rfl _ rfl (foldl_afterEvent_restore ..)
  · exact State.continues_of_live hv rfl rfl _ rfl rfl
  · exact State.continues_of_live hv rfl rfl _ rfl (foldl_afterEvent_writes_arm ..)
  · exact State.continues_of_live hv rfl rfl _ rfl (foldl_afterEvent_writes_arm ..)
  · exact State.continues_of_live hv rfl rfl _ rfl rfl

theorem State.continues_coreStep {s t : State} (h : s.coreStep = .next t) : s.Continues t := by
  rcases State.coreStep_cases h with
    rfl | ⟨v, w, hv, -, -, -, rfl⟩ | ⟨v, w, -, -, he⟩ | ⟨v, hv, -, rfl⟩
  · exact .refl _
  · exact State.continues_of_live hv rfl rfl _ rfl rfl
  · exact State.continues_exec he
  · exact State.continues_of_live hv rfl rfl _ rfl rfl

theorem State.continues_boot {s : State} (h : s.live = none) : s.Continues s.boot := by
  rw [State.boot_eq]
  refine ⟨rfl, _, rfl, ?_⟩
  rw [State.pins_off h, bootEvents, List.foldl_cons, foldl_afterEvent_restore]
  rfl

/-- Every step continues the state it starts from. -/
theorem step_continues {s t : State} (h : step s = .next t) : s.Continues t := by
  refine step_keeps (P := s.Continues) ?inputs ?core ?receive ?boot ?loss ?cut (.refl s) h
  case inputs => exact fun _ _ hs => hs
  case core => exact fun _ _ hs h => hs.trans (State.continues_coreStep h)
  case receive => exact fun _ _ _ hs hv _ => hs.trans (State.continues_of_live hv rfl rfl _ rfl rfl)
  case boot => exact fun _ hs hl => hs.trans (State.continues_boot hl)
  case loss => exact fun s _ hs _ => hs.trans (s.continues_goOff _ _)
  case cut => exact fun s _ _ hs => hs.trans (s.continues_goOff _ _)

/-- Settles O42: the events a step adds take the lines it found to the lines it leaves. -/
theorem traceShowsLinesKept : Obligations.TraceShowsLinesKept :=
  fun _ _ hs h => (step_continues h).traceShowsLines hs

/-- Settles O46: a step that continues the state before it writes no parameter and only adds events. -/
theorem parametersAndPastAreKept : Obligations.ParametersAndPastAreKept := by
  intro s t h
  obtain ⟨hp, es, htr, -⟩ := step_continues h
  exact ⟨hp, es, htr⟩

/-! ### No step stops -/

theorem State.mailboxFilled_of_live {s : State} {u : Volatile} (h : s.live = some u)
    (hu : u.ready = true → u.mbox ≠ none) : s.MailboxFilled := by
  intro v hv
  cases h.symm.trans hv
  exact hu

theorem mailboxFilled_coreStep {s t : State} (hs : s.MailboxFilled) (h : s.coreStep = .next t) : t.MailboxFilled := by
  rcases State.coreStep_cases h with
    rfl | ⟨v, w, hv, -, -, -, rfl⟩ | ⟨v, w, -, -, he⟩ | ⟨v, hv, -, rfl⟩
  · exact hs
  · exact State.mailboxFilled_of_live rfl (by simp)
  · obtain ⟨v', u, hv', hu, hready, hmbox, -⟩ := exec_sequencer he
    exact State.mailboxFilled_of_live hu (hready ▸ hmbox ▸ hs v' hv')
  · exact State.mailboxFilled_of_live rfl (hs v hv)

/-- The receiver step fills the mailbox and boot clears the flag, so every step keeps the mailbox filled (R202, R231). -/
theorem mailboxFilled_step {s t : State} (hs : s.MailboxFilled) (h : step s = .next t) : t.MailboxFilled := by
  refine step_keeps (P := State.MailboxFilled) (fun _ _ h => h) (fun _ _ => mailboxFilled_coreStep) ?receive ?boot ?loss
    ?cut hs h
  case receive => exact fun _ _ _ _ _ _ => State.mailboxFilled_of_live rfl (by simp)
  case boot =>
    intro s _ _
    rw [State.boot_eq]
    exact State.mailboxFilled_of_live rfl fun h => nomatch h
  case loss => rintro s v - - u ⟨⟩
  case cut => rintro s k draw - u ⟨⟩

/-- With a word in the mailbox whenever the flag is set, the core's step ends (R29). -/
theorem State.MailboxFilled.coreStep_ends {s : State} (hs : s.MailboxFilled) : ∃ t, s.coreStep = .next t := by
  cases hl : s.live with
  | none => exact ⟨s, State.coreStep_off hl⟩
  | some v =>
    cases ha : v.activity with
    | sleep =>
      rw [State.coreStep_sleep hl ha]
      split
      · next hready =>
        obtain ⟨w, hw⟩ := Option.ne_none_iff_exists'.1 (hs v hl hready)
        exact ⟨_, State.fetch_next.2 ⟨w, hw, rfl⟩⟩
      · exact ⟨s, rfl⟩
    | exec w =>
      rw [State.coreStep_exec hl ha]
      exact exec_of_live hl _
    | backoff => exact ⟨_, State.coreStep_backoff hl ha⟩

/-- Only the core's step could stop: every other choice of the environment ends. -/
theorem State.MailboxFilled.step_ends {s : State} (hs : s.MailboxFilled) : ∃ t, step s = .next t := by
  cases hi : s.inputs with
  | nil => exact step_of_nil hi ▸ hs.coreStep_ends
  | cons x xs =>
    rw [step_of_cons hi]
    cases x with
    | run => exact State.MailboxFilled.coreStep_ends (s := { s with inputs := xs }) hs
    | word w => exact ⟨_, rfl⟩
    | powerOn => exact ⟨_, rfl⟩
    | powerLoss => exact ⟨_, rfl⟩
    | powerLossIn k draw => exact ⟨_, rfl⟩

/-- Settles O44: the fetch finds its word, and no command on a powered device stops. -/
theorem stepNeverStops : Obligations.StepNeverStops := by
  intro s hs
  obtain ⟨t, ht⟩ := hs.step_ends
  exact ⟨t, ht, mailboxFilled_step hs ht⟩

/-- Settles O18: every command is a `State.command`, which looks for power first. -/
theorem commandsNeedPower : Obligations.CommandsNeedPower := by
  intro s i hl
  obtain ⟨f, hf⟩ := exec_eq_command i
  rw [hf]
  exact State.attempt_off hl _

/-! ### Settings, mode and record -/

/-- `t` has the parameters and the record of `s`, and if it is powered then so was `s`, with the same mode, settings and lines. -/
def State.QuietTo (s t : State) : Prop :=
  t.params = s.params ∧ t.nv = s.nv ∧
    ∀ u, t.live = some u → ∃ v, s.live = some v ∧ u.sync = v.sync ∧ u.att = v.att ∧ u.pins = v.pins

theorem State.QuietTo.refl (s : State) : s.QuietTo s := ⟨rfl, rfl, fun u hu => ⟨u, hu, rfl, rfl, rfl⟩⟩

/-- A step between two powered states that writes neither record nor parameters, mode, settings or lines. -/
theorem State.quietTo_of_live {s t : State} {v u : Volatile} (hv : s.live = some v) (hu : t.live = some u)
    (hp : t.params = s.params) (hnv : t.nv = s.nv) (hsync : u.sync = v.sync) (hatt : u.att = v.att)
    (hpins : u.pins = v.pins) : s.QuietTo t := by
  refine ⟨hp, hnv, fun u' hu' => ?_⟩
  cases hu.symm.trans hu'
  exact ⟨v, hv, hsync, hatt, hpins⟩

theorem State.quietTo_goOff (s : State) (es : List Event) : s.QuietTo (s.goOff es s.nv) :=
  ⟨rfl, rfl, fun _ hu => nomatch hu⟩

theorem State.quietTo_receive (s : State) (w : Word) : s.QuietTo (s.receive w) := by
  rcases State.receive_cases s w with hr | ⟨v, hv, -, hr⟩ <;> rw [hr]
  · exact .refl s
  · exact State.quietTo_of_live hv rfl rfl rfl rfl rfl rfl

theorem State.quietTo_powerLoss (s : State) : s.QuietTo s.powerLoss := by
  cases hl : s.live with
  | none => rw [State.powerLoss_off hl]; exact .refl s
  | some v => rw [State.powerLoss_powered hl]; exact s.quietTo_goOff []

/-- Everything a power-on can do. -/
theorem State.powerOn_cases (s : State) : s.powerOn = s ∨ (s.live = none ∧ s.powerOn = s.boot) := by
  cases hl : s.live with
  | none => exact .inr ⟨rfl, State.powerOn_off hl⟩
  | some v => exact .inl (State.powerOn_powered hl)

theorem State.quietTo_powerLossIn {s : State} (h : s.committing = false) (k : Nat) (draw : Triple Byte) :
    s.QuietTo (s.powerLossIn k draw) := by
  rw [State.powerLossIn, h]
  exact s.quietTo_goOff _

/-- What a step can be to the mode, the settings, the lines and the record. -/
inductive StepEffect (s : State) : State → Prop
  /-- A whole command. -/
  | command {t : State} {v : Volatile} {w : Word} (xs : List Input) (live : s.live = some v)
      (activity : v.activity = .exec w) (run : exec (s.commandFor v w) { s with inputs := xs } = .next t) :
      StepEffect s t
  /-- A boot. -/
  | boot (xs : List Input) (off : s.live = none) : StepEffect s (State.boot { s with inputs := xs })
  /-- A COMMIT that a power loss cuts short (R174). -/
  | torn {k : Nat} {draw : Triple Byte} {xs : List Input} (inputs : s.inputs = .powerLossIn k draw :: xs)
      (committing : s.committing = true) : StepEffect s (State.powerLossIn { s with inputs := xs } k draw)
  /-- Anything else: none of them is written, though power may be lost. -/
  | quiet {t : State} (quiet : s.QuietTo t) : StepEffect s t

/-- The core's step is a command, or it is quiet. -/
theorem stepEffect_of_coreStep {s t : State} (xs : List Input) (h : State.coreStep { s with inputs := xs } = .next t) :
    StepEffect s t := by
  rcases State.coreStep_cases h with
    rfl | ⟨v, w, hv, -, -, -, rfl⟩ | ⟨v, w, hv, ha, he⟩ | ⟨v, hv, -, rfl⟩
  · exact .quiet (.refl s)
  · exact .quiet (State.quietTo_of_live hv rfl rfl rfl rfl rfl rfl)
  · exact .command xs hv ha he
  · exact .quiet (State.quietTo_of_live hv rfl rfl rfl rfl rfl rfl)

/-- Every step has one of these effects: the choices of the environment one by one. -/
theorem step_effect {s t : State} (h : step s = .next t) : StepEffect s t := by
  cases hi : s.inputs with
  | nil => exact stepEffect_of_coreStep s.inputs (step_of_nil hi ▸ h)
  | cons x xs =>
    rw [step_of_cons hi] at h
    cases x with
    | run => exact stepEffect_of_coreStep xs h
    | word w => cases h; exact .quiet (State.quietTo_receive { s with inputs := xs } w)
    | powerOn =>
      cases h
      rcases State.powerOn_cases { s with inputs := xs } with hp | ⟨hl, hp⟩ <;> rw [hp]
      · exact .quiet (.refl s)
      · exact .boot xs hl
    | powerLoss => cases h; exact .quiet (State.quietTo_powerLoss { s with inputs := xs })
    | powerLossIn k draw =>
      cases h
      cases hc : s.committing with
      | true => exact .torn hi hc
      | false => exact .quiet (State.quietTo_powerLossIn (s := { s with inputs := xs }) hc k draw)

/-- The mode after a command (R101, R103, R120). -/
theorem exec_sync {i : Instr} {s t : State} {v u : Volatile} (h : exec i s = .next t) (hv : s.live = some v)
    (hu : t.live = some u) : i = .unlock ∨ i = .reset ∨ u.sync = v.sync := by
  obtain ⟨v', hv', hc⟩ := exec_cases h
  cases hv.symm.trans hv'
  rcases hc with
    ⟨hi, -⟩ | ⟨-, rfl⟩ | ⟨hi, -⟩ | ⟨-, rfl⟩ | ⟨_, _, _, _, -, rfl⟩ | ⟨_, _, _, -, rfl⟩ | ⟨_, _, -, rfl⟩
  · exact .inl hi
  · cases hu; exact .inr (.inr rfl)
  · exact .inr (.inl hi)
  all_goals cases hu; exact .inr (.inr rfl)

/-- The record after a command: only COMMIT writes it, and it writes the settings (R126, R170). -/
theorem exec_nv {i : Instr} {s t : State} (h : exec i s = .next t) :
    t.nv = s.nv ∨
      ∃ a x v, i = .commit a x ∧ s.live = some v ∧
        t.nv = Memory.writeAll s.params.nvInit (Memory.writeAll s.params.nvInit s.nv s.params.nvErased) v.att := by
  obtain ⟨v, hv, hc⟩ := exec_cases h
  rcases hc with
    ⟨-, rfl⟩ | ⟨-, rfl⟩ | ⟨-, rfl⟩ | ⟨-, rfl⟩ | ⟨_, _, _, _, -, rfl⟩ | ⟨_, _, _, -, rfl⟩ | ⟨a, x, hi, rfl⟩
  on_goal 7 => exact .inr ⟨a, x, v, hi, hv, rfl⟩
  all_goals exact .inl rfl

/-- The settings after a command: RESET loads the record, and SET stores its operand (R103, R125). -/
theorem exec_att {i : Instr} {s t : State} {v u : Volatile} (h : exec i s = .next t) (hv : s.live = some v)
    (hu : t.live = some u) :
    u.att = v.att ∨ u.att = s.nvRecord ∨ ∃ c d, u.att = v.att.set c (settingOperand d) := by
  obtain ⟨v', hv', hc⟩ := exec_cases h
  cases hv.symm.trans hv'
  rcases hc with ⟨-, rfl⟩ | ⟨-, rfl⟩ | ⟨-, rfl⟩ | ⟨-, rfl⟩ | ⟨_, _, _, _, -, rfl⟩ | ⟨c, _, d, -, rfl⟩ | ⟨_, _, -, rfl⟩
    <;> cases hu
  · exact .inl rfl
  · exact .inl rfl
  · exact .inr (.inl rfl)
  · exact .inl rfl
  · exact .inl rfl
  · exact .inr (.inr ⟨c, d, rfl⟩)
  · exact .inl rfl

/-- Settles O47: no step but a command writes the mode of a powered device, and the two commands that do are decoded from the two
magic words. -/
theorem modeChangesOnlyByUnlockAndReset : Obligations.ModeChangesOnlyByUnlockAndReset := by
  intro s t v u h hv hu hne
  cases step_effect h with
  | @command _ v' w xs hv' ha he =>
    cases hv.symm.trans hv'
    rcases exec_sync he hv hu with hi | hi | hsync
    · obtain ⟨hl, rfl⟩ := decode_eq_unlock hi
      exact .inl ⟨ha, hl⟩
    · obtain ⟨hl, rfl⟩ := decode_eq_reset hi
      exact .inr ⟨ha, hl⟩
    · exact absurd hsync hne
  | boot xs off => cases hv.symm.trans off
  | torn hi hc => cases hu
  | quiet hq =>
    obtain ⟨-, -, hlive⟩ := hq
    obtain ⟨v', hv', hsync, -⟩ := hlive u hu
    cases hv.symm.trans hv'
    exact absurd hsync hne

theorem State.nvByte_congr {s t : State} (hp : t.params = s.params) (hnv : t.nv = s.nv) (c : Lane) :
    t.nvByte c = s.nvByte c := by
  rw [State.nvByte, State.nvByte, hp, hnv]

theorem isCommit_iff {i : Instr} : isCommit i = true ↔ ∃ a x, i = .commit a x := by
  cases i <;> simp [isCommit]

/-- Settles O48: the record is written by a whole COMMIT and by the draw of a torn one, and a COMMIT is decoded while UNLOCKED. -/
theorem recordChangesOnlyByCommit : Obligations.RecordChangesOnlyByCommit := by
  intro s t c h hne
  cases step_effect h with
  | @command _ v w xs hv ha he =>
    obtain ⟨hp, -⟩ := State.continues_exec he
    rcases exec_nv he with hnv | ⟨a, x, -, hi, -⟩
    · exact absurd (State.nvByte_congr hp hnv c) hne
    · exact ⟨v, w, a, x, hv, decode_eq_commit hi, ha, hi⟩
  | boot xs off => exact absurd (by rw [State.boot_eq]; rfl) hne
  | torn hi hc =>
    obtain ⟨v, w, hv, ha, hcommit⟩ := State.committing_iff.1 hc
    obtain ⟨a, x, hcmd⟩ := isCommit_iff.1 hcommit
    exact ⟨v, w, a, x, hv, decode_eq_commit hcmd, ha, hcmd⟩
  | quiet hq =>
    obtain ⟨hp, hnv, -⟩ := hq
    exact absurd (State.nvByte_congr hp hnv c) hne

/-- A 5-bit operand is a setting in range (R24, R73). -/
theorem inRange_settingOperand (d : BitVec 5) : inRange (settingOperand d) := by
  have := d.isLt
  simp only [inRange, settingOperand, BitVec.toNat_setWidth]
  omega

theorem State.nvRecord_get (s : State) (c : Lane) : s.nvRecord.get c = s.nvByte c := Memory.record_get ..

/-- A command keeps the range: SET stores a 5-bit value, RESET loads the record, COMMIT stores the settings. -/
theorem settingsInRange_exec {i : Instr} {s t : State} (hm : s.MemoryCanonical) (hs : s.SettingsInRange)
    (h : exec i s = .next t) : t.SettingsInRange := by
  obtain ⟨hrec, hatt⟩ := hs
  obtain ⟨hp, -⟩ := State.continues_exec h
  constructor
  · intro c
    rcases exec_nv h with hnv | ⟨a, x, v, -, hv, hnv⟩
    · rw [State.nvByte_congr hp hnv]
      exact hrec c
    · rw [State.nvByte, hp, hnv, Memory.read_writeAll _ _ _ _ (Memory.wf_writeAll _ _ _ hm)]
      exact hatt v hv c
  · intro u hu c
    obtain ⟨v, hv⟩ := live_of_exec h
    rcases exec_att h hv hu with h' | h' | ⟨e, d, h'⟩ <;> rw [h']
    · exact hatt v hv c
    · rw [State.nvRecord_get]
      exact hrec c
    · rw [Triple.get_set]
      split
      · exact inRange_settingOperand d
      · exact hatt v hv c

/-- Settles O45: what is written to a setting or to the record is a 5-bit operand, another setting or byte of the record, or the
draw of a torn COMMIT. -/
theorem settingsInRangeKept : Obligations.SettingsInRangeKept := by
  intro s t hm hdraws hs h
  obtain ⟨hrec, hatt⟩ := hs
  cases step_effect h with
  | command xs hv ha he => exact settingsInRange_exec (s := { s with inputs := xs }) hm ⟨hrec, hatt⟩ he
  | boot xs off =>
    rw [State.boot_eq]
    refine ⟨hrec, ?_⟩
    rintro u ⟨⟩ c
    exact State.nvRecord_get s c ▸ hrec c
  | @torn k draw xs hi hc =>
    refine ⟨fun c => ?_, fun u hu => nomatch hu⟩
    have hnv : (State.powerLossIn { s with inputs := xs } k draw).nv = Memory.writeAll s.params.nvInit s.nv draw :=
      if_pos hc
    rw [State.nvByte, hnv]
    exact Memory.read_writeAll _ _ draw c hm ▸ hdraws _ _ hi c
  | quiet hq =>
    obtain ⟨hp, hnv, hlive⟩ := hq
    refine ⟨fun c => State.nvByte_congr hp hnv c ▸ hrec c, fun u hu c => ?_⟩
    obtain ⟨v, hv, -, hatt', -⟩ := hlive u hu
    exact hatt' ▸ hatt v hv c

/-! ### The core without a step, and a fetch without a word -/

/-- While nothing happens outside, a step is the core's (logs 1, 2). -/
theorem step_of_coreMoves {s : State} {rest : List Input} (h : s.CoreMoves rest) :
    step s = State.coreStep { s with inputs := rest } := by
  rcases h with hi | ⟨hi, rfl⟩
  · exact step_of_cons hi
  · rw [step_of_nil hi, ← hi]

/-- Settles O29: the core's step of a sleeping device with the flag set is the fetch. -/
theorem fetchOfNoValueFaults : Obligations.FetchOfNoValueFaults := by
  intro s v rest hv ha hready hmbox hmoves
  rw [step_of_coreMoves hmoves, State.coreStep_sleep (s := { s with inputs := rest }) hv ha, if_pos hready, State.fetch,
    hmbox]

/-- Settles O31: without power, and asleep with the flag clear, the core's step answers the state it finds. -/
theorem idleDeviceStaysAsItIs : Obligations.IdleDeviceStaysAsItIs := by
  intro s rest hmoves hidle
  rw [step_of_coreMoves hmoves]
  rcases hidle with hl | ⟨v, hv, ha, hready⟩
  · exact State.coreStep_off hl
  · rw [State.coreStep_sleep (s := { s with inputs := rest }) hv ha, hready]
    rfl

/-! ### One enable at a time -/

/-- At every point of the events `es`, from the lines `p`, at most one enable line is ASSERTED (R153). -/
def OneEnableFrom (p : Pins) (es : List Event) : Prop := ∀ k, ((es.take k).foldl Pins.afterEvent p).OneEnable

theorem oneEnableThroughout_iff (es : List Event) : OneEnableThroughout es ↔ OneEnableFrom Pins.undriven es := Iff.rfl

theorem OneEnableFrom.append {p : Pins} {es fs : List Event} (hes : OneEnableFrom p es)
    (hfs : OneEnableFrom (es.foldl Pins.afterEvent p) fs) : OneEnableFrom p (es ++ fs) := by
  intro k
  rw [List.take_append]
  rcases Nat.le_total k es.length with hk | hk
  · rw [Nat.sub_eq_zero_of_le hk, List.take_zero, List.append_nil]
    exact hes k
  · rw [List.take_of_length_le hk, List.foldl_append]
    exact hfs _

/-- No enable line but that of channel `c` is ASSERTED. -/
def Pins.OnlyEnable (c : Lane) (p : Pins) : Prop := ∀ d, p.en.get d = .asserted → d = c

/-- An event that asserts no enable line but that of channel `c`. -/
def Event.AssertsOnly (c : Lane) (e : Event) : Prop := ∀ d, e = .line (.en d .asserted) → d = c

theorem Pins.OnlyEnable.oneEnable {c : Lane} {p : Pins} (h : p.OnlyEnable c) : p.OneEnable :=
  fun d e hd he => (h d hd).trans (h e he).symm

theorem Pins.NoEnable.onlyEnable {p : Pins} (h : p.NoEnable) (c : Lane) : p.OnlyEnable c :=
  fun d hd => absurd hd (h d)

theorem Pins.noEnable_undriven : Pins.undriven.NoEnable := by
  intro c
  cases c <;> decide

theorem Pins.OnlyEnable.afterEvent {c : Lane} {p : Pins} {e : Event} (hp : p.OnlyEnable c) (he : e.AssertsOnly c) :
    (p.afterEvent e).OnlyEnable c := by
  cases e with
  | line w =>
    cases w with
    | en d v =>
      intro i hi
      rw [Pins.afterEvent, Pins.write, Triple.get_set] at hi
      split at hi
      · next hdi => exact he i (by rw [hdi, hi])
      · exact hp i hi
    | notch i v => exact hp
    | data v => exact hp
    | clk v => exact hp
  | powerLoss => exact Pins.noEnable_undriven.onlyEnable c
  | _ => exact hp

theorem Pins.OnlyEnable.foldl_afterEvent {c : Lane} {es : List Event} {p : Pins} (hp : p.OnlyEnable c)
    (hes : ∀ e ∈ es, e.AssertsOnly c) : (es.foldl Pins.afterEvent p).OnlyEnable c := by
  induction es generalizing p with
  | nil => exact hp
  | cons e es ih =>
    exact ih (hp.afterEvent (hes e List.mem_cons_self)) fun e' he' => hes e' (List.mem_cons_of_mem _ he')

/-- Events that assert one channel's enable only, from lines on which no enable is ASSERTED. -/
theorem oneEnableFrom_of_assertsOnly {p : Pins} (hp : p.NoEnable) (c : Lane) {es : List Event}
    (hes : ∀ e ∈ es, e.AssertsOnly c) : OneEnableFrom p es := fun _ =>
  ((hp.onlyEnable c).foldl_afterEvent fun e he => hes e (List.mem_of_mem_take he)).oneEnable

/-- Line writes that assert one channel's enable only, as events. -/
theorem lineEvents_assertsOnly {c : Lane} {ws : List LineWrite} (h : ∀ d, .en d .asserted ∈ ws → d = c) :
    ∀ e ∈ lineEvents ws, e.AssertsOnly c := by
  intro e he d hed
  obtain ⟨w, hw, rfl⟩ := List.mem_map.1 he
  cases hed
  exact h d hw

theorem transferWrites_assert_only {c d : Lane} {b : Byte} (h : .en d .asserted ∈ transferWrites c b) : d = c := by
  simpa [transferWrites, bitWrites] using h

theorem EnableDefault.toSwitch_ne_asserted (x : EnableDefault) : x.toSwitch ≠ .asserted := by
  cases x <;> decide

/-- No power-on value asserts an enable (D8). -/
theorem gpioDefaultWrites_assert_none (g : GpioPoweron) (d : Lane) : .en d .asserted ∉ gpioDefaultWrites g := by
  simp [gpioDefaultWrites, (EnableDefault.toSwitch_ne_asserted _).symm]

/-- Events that, from lines on which no enable is ASSERTED, assert at most one at a time and leave none (R153). -/
def ExclusiveEvents (es : List Event) : Prop :=
  ∀ p : Pins, p.NoEnable → OneEnableFrom p es ∧ (es.foldl Pins.afterEvent p).NoEnable

theorem ExclusiveEvents.append {es fs : List Event} (hes : ExclusiveEvents es) (hfs : ExclusiveEvents fs) :
    ExclusiveEvents (es ++ fs) := by
  intro p hp
  obtain ⟨hone, hno⟩ := hes p hp
  obtain ⟨hone', hno'⟩ := hfs _ hno
  exact ⟨hone.append hone', by rw [List.foldl_append]; exact hno'⟩

/-- Events that assert no enable. -/
theorem exclusiveEvents_of_assertsNone {es : List Event} (h : ∀ c, ∀ e ∈ es, e.AssertsOnly c) : ExclusiveEvents es := by
  intro p hp
  refine ⟨oneEnableFrom_of_assertsOnly hp .l0 (h .l0), fun d hd => ?_⟩
  have only : ∀ c, d = c := fun c => (hp.onlyEnable c).foldl_afterEvent (h c) d hd
  exact absurd ((only .l0).symm.trans (only .l1)) (by decide)

/-- A transfer asserts its own enable first and deasserts it last (R150, R153). -/
theorem exclusiveEvents_transfer (c : Lane) (b : Byte) : ExclusiveEvents (lineEvents (transferWrites c b)) := by
  intro p hp
  refine ⟨oneEnableFrom_of_assertsOnly hp c (lineEvents_assertsOnly fun d => transferWrites_assert_only), fun d => ?_⟩
  rw [foldl_afterEvent_lineEvents, Pins.writeAll_transfer, Triple.get_set]
  split
  · decide
  · exact hp d

theorem exclusiveEvents_driveAll (a : Triple Byte) : ExclusiveEvents (driveAllEvents a) := by
  simp only [driveAllEvents, Lane.all, List.flatMap_cons, List.flatMap_nil, lineEvents_append, List.append_nil]
  exact (exclusiveEvents_transfer _ _).append ((exclusiveEvents_transfer _ _).append (exclusiveEvents_transfer _ _))

/-- The events of a boot: restore, load, the three transfers one after another, the re-arm (R231). -/
theorem exclusiveEvents_boot (g : GpioPoweron) (r : Triple Byte) : ExclusiveEvents (bootEvents g r) := by
  have single : ∀ e : Event, (∀ w, e ≠ .line w) → ExclusiveEvents [e] := fun e he =>
    exclusiveEvents_of_assertsNone fun c e' he' d hd => absurd (List.mem_singleton.1 he' ▸ hd) (he _)
  have restore : ExclusiveEvents (lineEvents (gpioDefaultWrites g)) :=
    exclusiveEvents_of_assertsNone fun c => lineEvents_assertsOnly fun d hd =>
      absurd hd (gpioDefaultWrites_assert_none g d)
  have load : ExclusiveEvents (loadEvents r) :=
    exclusiveEvents_of_assertsNone fun c e he d hd => by simp [loadEvents, hd] at he
  exact (single .powerOn (by simp)).append
    (((restore.append load).append (exclusiveEvents_driveAll r)).append (single .arm (by simp)))

/-! ### The state after reset -/

/-- Reset is the boot of the device before its first power-on (R230, R231). -/
theorem State.reset_eq_boot : State.reset = (State.factory Config.params).boot := by
  rw [State.boot_eq]
  rfl

/-- After reset the device is powered, on the record `NV_INIT`. -/
theorem State.reset_live :
    State.reset.live = some (Volatile.afterBoot Config.params.gpioPoweron Config.params.nvInit) := rfl

theorem enablesExclusive_reset : State.reset.EnablesExclusive := by
  refine ⟨?_, fun c => ?_, ?_⟩
  · rw [State.reset_eq_boot]
    exact (State.continues_boot rfl).traceShowsLines rfl
  · rw [State.pins_of_live State.reset_live, Volatile.afterBoot, Triple.get_const]
    decide
  · exact (oneEnableThroughout_iff _).2 (exclusiveEvents_boot _ _ _ Pins.noEnable_undriven).1

theorem lockedSettled_reset : State.reset.LockedSettled := by
  rintro v ⟨⟩ -
  exact ⟨fun _ => rfl, rfl, Triple.get_const _, rfl, rfl⟩

/-- Settles O38: each invariant is read off the volatile state and the trace that a boot leaves. -/
theorem invariantsHoldAtReset : Obligations.InvariantsHoldAtReset := by
  refine ⟨?_, ?_, lockedSettled_reset, State.reset_memory_wf, enablesExclusive_reset⟩
  · exact State.contextsAgree_of_live State.reset_live (Volatile.contextsAgree_iff.2 (.inl ⟨rfl, rfl, rfl⟩))
  · exact State.mailboxFilled_of_live State.reset_live fun h => nomatch h

/-- Settles O36: reset is a boot that finds `NV_INIT`, and a power loss takes the volatile elements only. -/
theorem resetStateIsTheTable : Obligations.ResetStateIsTheTable := by
  refine ⟨⟨_, State.reset_live, ?_⟩, fun c => rfl, rfl, fun s v hv => ?_, fun p => ⟨rfl, fun c => rfl, rfl, rfl⟩⟩
  · exact ⟨rfl, fun c => rfl, rfl, Triple.get_const _, rfl, rfl, rfl, rfl, rfl, rfl⟩
  · rw [State.powerLoss_powered hv]
    exact ⟨rfl, rfl, fun c => rfl, rfl, by simp⟩

end Sys2Proof.Machine
end

section
/-! SUPPORT. The proofs of the statements about the record and the mailbox (`20_memory.md`). -/

namespace Sys2Proof.Machine

/-! ### The canonical form of the record -/

theorem State.MemoryCanonical.congr {s t : State} (hs : s.MemoryCanonical) (hp : t.params = s.params)
    (hnv : t.nv = s.nv) : t.MemoryCanonical := by
  rwa [State.MemoryCanonical, hp, hnv]

/-- A COMMIT writes all three bytes twice, and no other command writes the record (R170). -/
theorem memoryCanonical_exec {i : Instr} {s t : State} (hs : s.MemoryCanonical) (h : exec i s = .next t) :
    t.MemoryCanonical := by
  obtain ⟨hp, -⟩ := State.continues_exec h
  rcases exec_nv h with hnv | ⟨a, x, v, -, -, hnv⟩
  · exact hs.congr hp hnv
  · rw [State.MemoryCanonical, hp, hnv]
    exact Memory.wf_writeAll _ _ _ (Memory.wf_writeAll _ _ _ hs)

/-- Settles O41: whole and torn COMMITs write the record through `Memory.writeAll`, and nothing else writes it. -/
theorem memoryCanonicalKept : Obligations.MemoryCanonicalKept := by
  intro s t hs h
  cases step_effect h with
  | command xs hv ha he => exact memoryCanonical_exec (s := { s with inputs := xs }) hs he
  | boot xs off =>
    rw [State.boot_eq]
    exact hs
  | @torn k draw xs hi hc =>
    have hnv : (State.powerLossIn { s with inputs := xs } k draw).nv = Memory.writeAll s.params.nvInit s.nv draw :=
      if_pos hc
    rw [State.MemoryCanonical, hnv]
    exact Memory.wf_writeAll _ _ draw hs
  | quiet hq =>
    obtain ⟨hp, hnv, -⟩ := hq
    exact hs.congr hp hnv

/-! ### The settings through a COMMIT and a load -/

/-- A COMMIT leaves a powered device whose record is the settings (R126, R170). -/
theorem exec_commit_record {s : State} {v : Volatile} (hm : s.MemoryCanonical) (hv : s.live = some v) (a : BitVec 7)
    (x : BitVec 5) : ∃ t u, exec (.commit a x) s = .next t ∧ t.live = some u ∧ t.nvRecord = v.att := by
  refine ⟨_, _, (exec_commit a x s).trans (State.attempt_of_live hv (by rw [Running.commit_eq])), rfl, ?_⟩
  refine Triple.ext_get fun c => ?_
  rw [State.nvRecord_get]
  exact Memory.read_writeAll _ _ _ c (Memory.wf_writeAll _ _ _ hm)

/-- A RESET loads the record into the settings (R103, R172). -/
theorem exec_reset_att {s : State} {v : Volatile} (hv : s.live = some v) :
    ∃ t u, exec .reset s = .next t ∧ t.live = some u ∧ u.att = s.nvRecord := by
  refine ⟨_, _, (exec_reset s).trans (State.command_of_live hv _), rfl, ?_⟩
  rw [Running.rearm_toVolatile, Volatile.rearm_att, Running.driveAll_eq, Running.load_eq, Running.gpioDefaults_eq]
  rfl

/-- So does the boot after a power loss (R231, R232). -/
theorem powerCycle_att {s : State} {v : Volatile} (hv : s.live = some v) :
    ∃ u, s.powerLoss.powerOn.live = some u ∧ u.att = s.nvRecord := by
  rw [State.powerLoss_powered hv, State.powerOn_off (State.goOff_live ..), State.boot_eq]
  exact ⟨_, rfl, rfl⟩

/-- Settles O53: the COMMIT leaves the settings in the record, and both ways of loading take them from there. -/
theorem commitThenLoadRestores : Obligations.CommitThenLoadRestores := by
  intro s v a x hm hv
  obtain ⟨t, u, ht, hu, hrec⟩ := exec_commit_record hm hv a x
  exact ⟨t, ht, hrec ▸ exec_reset_att hu, hrec ▸ powerCycle_att hu⟩

/-! ### The mailbox -/

/-- A word presented to a powered, ARMED device is captured (R202). -/
theorem step_word_armed {s : State} {v : Volatile} {w : Word} {xs : List Input} (hv : s.live = some v)
    (hrx : v.rx = .armed) (hi : s.inputs = .word w :: xs) :
    step s = .next { s with inputs := xs, live := some (v.capture w), trace := s.trace ++ [.deliver w] } :=
  (step_of_cons hi).trans (congrArg Host.Outcome.next (State.receive_armed (s := { s with inputs := xs }) hv hrx w))

/-- A sleeping device with the flag set takes the word of its mailbox (R203). -/
theorem step_run_fetch {s : State} {v : Volatile} {w : Word} {xs : List Input} (hv : s.live = some v)
    (ha : v.activity = .sleep) (hready : v.ready = true) (hmbox : v.mbox = some w) (hi : s.inputs = .run :: xs) :
    step s = .next { s with inputs := xs, live := some (v.take w), trace := s.trace ++ [.fetch w] } := by
  rw [step_of_cons hi, State.react, State.coreStep_sleep (s := { s with inputs := xs }) hv ha, if_pos hready]
  exact State.fetch_next.2 ⟨w, hmbox, rfl⟩

/-- Settles O56: the receiver step fills the mailbox and sets the flag, and the fetch takes the word and clears it. -/
theorem deliveredWordIsFetched : Obligations.DeliveredWordIsFetched := by
  intro s v w rest hv ha hrx hi
  refine ⟨_, _, (v.capture w).take w, step_word_armed hv hrx hi, step_run_fetch rfl ha rfl rfl rfl, rfl, rfl, rfl, ?_⟩
  simp [newEvents]

/-! ### The order of the writes in a commit -/

/-- A write the store's position does not allow faults (R53, U12). -/
theorem Running.memWrite_of_none {r : Running} {i : Lane} (h : r.store.afterWrite i = none) (b : Byte) :
    r.memWrite i b = .error .nvNotErased := by
  rw [Running.memWrite, h]

/-- A write the store's position allows is taken, and moves the store on (R171, R175). -/
theorem Running.memWrite_of_some {r : Running} {i : Lane} {p : StorePhase} (h : r.store.afterWrite i = some p)
    (b : Byte) : ∃ r', r.memWrite i b = .ok r' ∧ r'.store = p := by
  rw [Running.memWrite, h]
  exact ⟨_, rfl, rfl⟩

theorem StorePhase.afterWrite_idle (i : Lane) : StorePhase.idle.afterWrite i = none := by
  cases i <;> rfl

/-- Settles O19: no write follows IDLE, and each write of the sequence follows the one before it (R171). -/
theorem writeNeedsErase : Obligations.WriteNeedsErase := by
  intro r i b
  refine ⟨fun hidle => Running.memWrite_of_none (hidle ▸ StorePhase.afterWrite_idle i) b, ?_⟩
  obtain ⟨r0, h0, hs0⟩ := Running.memWrite_of_some (r := r.memErase) (i := .l0) (p := .wrote .l0) rfl b
  obtain ⟨r1, h1, hs1⟩ := Running.memWrite_of_some (r := r0) (i := .l1) (p := .wrote .l1) (by rw [hs0]; rfl) b
  obtain ⟨r2, h2, hs2⟩ := Running.memWrite_of_some (r := r1) (i := .l2) (p := .wrote .l2) (by rw [hs1]; rfl) b
  exact ⟨r0, r1, r2, h0, h1, h2, Running.memErase_store r, hs0, hs1, hs2⟩

end Sys2Proof.Machine
end

section
/-! SUPPORT. The proofs of the statements about the encoding (`30_encoding.md`). -/

namespace Sys2Proof

open Machine (setCommand)

/-! ### The fields of the encoder's words (R71, R76) -/

/-- A field put at bit `k` is read back from there (R71). -/
@[simp] theorem extractLsb'_wordField_self {n k : Nat} (x : BitVec n) (h : k + n ≤ 16) :
    (wordField x k).extractLsb' k n = x := by
  refine BitVec.eq_of_getLsbD_eq fun i hi => ?_
  have hbit : k + i < 16 := by omega
  simp [wordField, hi, hbit]

/-- A field puts nothing beside it, -/
@[simp] theorem getElem_wordField_beside {n k j : Nat} (x : BitVec n) (hj : j < 16) (h : j < k ∨ k + n ≤ j) :
    (wordField x k)[j] = false := by
  rw [← BitVec.getLsbD_eq_getElem]
  rcases h with h | h
  · simp [wordField, h]
  · have hbit : x.getLsbD (j - k) = false := BitVec.getLsbD_of_ge _ _ (by omega)
    simp [wordField, hbit]

/-- nor in another field. -/
@[simp] theorem extractLsb'_wordField_beside {n k j m : Nat} (x : BitVec n) (h : j + m ≤ k ∨ k + n ≤ j)
    (hm : j + m ≤ 16) : (wordField x k).extractLsb' j m = 0#m := by
  refine BitVec.eq_of_getLsbD_eq fun i hi => ?_
  have hij : j + i < 16 := by omega
  rw [BitVec.getLsbD_extractLsb', BitVec.getLsbD_eq_getElem hij, getElem_wordField_beside x hij (by omega)]
  simp

theorem encode_rsvd_fields (x : BitVec 15) :
    (encode (.rsvd x)).special = true ∧ (encode (.rsvd x)).extractLsb' 0 15 = x := by
  simp [encode, Word.special, BitVec.extractLsb'_or]

theorem encode_foreign_fields (a : BitVec 7) (p : BitVec 8) :
    (encode (.foreign a p)).special = false ∧ (encode (.foreign a p)).addr = a ∧
      (encode (.foreign a p)).payload = p := by
  simp [encode, Word.special, Word.addr, Word.payload, BitVec.extractLsb'_or]

theorem encode_notch_fields (a : BitVec 7) (x : BitVec 1) (sel val : BitVec 3) :
    (encode (.notch a x sel val)).special = false ∧ (encode (.notch a x sel val)).addr = a ∧
      (encode (.notch a x sel val)).notchsel = true ∧ (encode (.notch a x sel val)).bit6 = x ∧
      (encode (.notch a x sel val)).sel = sel ∧ (encode (.notch a x sel val)).val = val := by
  simp [encode, Word.special, Word.addr, Word.notchsel, Word.bit6, Word.sel, Word.val, BitVec.extractLsb'_or]

theorem encode_commit_fields (a : BitVec 7) (x : BitVec 5) :
    (encode (.commit a x)).special = false ∧ (encode (.commit a x)).addr = a ∧
      (encode (.commit a x)).notchsel = false ∧ (encode (.commit a x)).ch = 3#2 ∧
      (encode (.commit a x)).value = x := by
  simp [encode, Word.special, Word.addr, Word.notchsel, Word.ch, Word.value, BitVec.extractLsb'_or]

theorem encode_setCommand_fields (c : Lane) (a : BitVec 7) (v : BitVec 5) :
    (encode (setCommand c a v)).special = false ∧ (encode (setCommand c a v)).addr = a ∧
      (encode (setCommand c a v)).notchsel = false ∧ (encode (setCommand c a v)).ch = BitVec.ofNat 2 c.idx ∧
      (encode (setCommand c a v)).value = v := by
  cases c <;>
    simp [setCommand, encode, Word.special, Word.addr, Word.notchsel, Word.ch, Word.value, BitVec.extractLsb'_or,
      Lane.idx]

/-! ### A word is made of its fields -/

/-- Two words that agree in a field and in the field above it agree in both together. -/
theorem extractLsb'_join {w w' : Word} {k m n : Nat} (low : w.extractLsb' k m = w'.extractLsb' k m)
    (high : w.extractLsb' (k + m) n = w'.extractLsb' (k + m) n) :
    w.extractLsb' k (n + m) = w'.extractLsb' k (n + m) := by
  simp only [← BitVec.extractLsb'_append_extractLsb'_eq_extractLsb' (Eq.refl (k + m)), low, high]

theorem extractLsb'_one_congr {w w' : Word} {k : Nat} (h : w.getLsbD k = w'.getLsbD k) :
    w.extractLsb' k 1 = w'.extractLsb' k 1 := by
  ext i hi
  obtain rfl : i = 0 := by omega
  simpa using h

theorem Word.eq_of_fields {w w' : Word} (hs : w.special = w'.special) (ha : w.addr = w'.addr)
    (hp : w.payload = w'.payload) : w = w' := by
  simpa using extractLsb'_join (extractLsb'_join hp ha) (extractLsb'_one_congr hs)

/-- The notch fields make up the payload (R71). -/
theorem Word.payload_of_notch {w w' : Word} (hn : w.notchsel = w'.notchsel) (hx : w.bit6 = w'.bit6)
    (hsel : w.sel = w'.sel) (hval : w.val = w'.val) : w.payload = w'.payload :=
  extractLsb'_join (extractLsb'_join (extractLsb'_join hval hsel) hx) (extractLsb'_one_congr hn)

/-- So do the fields of the attenuator commands (R71). -/
theorem Word.payload_of_channel {w w' : Word} (hn : w.notchsel = w'.notchsel) (hc : w.ch = w'.ch)
    (hv : w.value = w'.value) : w.payload = w'.payload :=
  extractLsb'_join (extractLsb'_join hv hc) (extractLsb'_one_congr hn)

/-! ### The row that takes a word -/

/-- The rows of the opcode map as rules: in which mode, and for what fields of `w`, a word is read as which command, for a
device of address `dev` (R74, R76). The SET rows are one rule with a channel. -/
inductive Reads (dev : DevAddr) (w : Word) : Sync → Instr → Prop
  | unlock (magic : w = 0xD00D#16) : Reads dev w .locked .unlock
  | lockedDrop (other : w ≠ 0xD00D#16) : Reads dev w .locked (.lockedDrop w)
  | reset (magic : w = 0xFFFF#16) : Reads dev w .unlocked .reset
  | rsvd (other : w ≠ 0xFFFF#16) (special : w.special = true) : Reads dev w .unlocked (.rsvd (w.extractLsb' 0 15))
  | foreign (plain : w.special = false) (away : w.addrMatch dev = 0#7) :
      Reads dev w .unlocked (.foreign w.addr w.payload)
  | notch (plain : w.special = false) (here : w.addrMatch dev ≠ 0#7) (sel : w.notchsel = true) :
      Reads dev w .unlocked (.notch w.addr w.bit6 w.sel w.val)
  | commit (plain : w.special = false) (here : w.addrMatch dev ≠ 0#7) (unsel : w.notchsel = false) (ch : w.ch = 3#2) :
      Reads dev w .unlocked (.commit w.addr w.value)
  | set (c : Lane) (plain : w.special = false) (here : w.addrMatch dev ≠ 0#7) (unsel : w.notchsel = false)
      (ch : w.ch = BitVec.ofNat 2 c.idx) : Reads dev w .unlocked (setCommand c w.addr w.value)

theorem Word.ne_ones_of_plain {w : Word} (h : w.special = false) : w ≠ 0xFFFF#16 := by
  rintro rfl
  exact absurd h (by decide)

/-- A word is decoded by one of the rules, -/
theorem reads_decode (sync : Sync) (dev : DevAddr) (w : Word) : Reads dev w sync (decode sync dev w) := by
  cases sync with
  | locked =>
    rcases decode_locked dev w with ⟨hd, hw⟩ | ⟨hd, hw⟩ <;> rw [hd]
    · exact .unlock hw
    · exact .lockedDrop hw
  | unlocked =>
    unfold decode decodePayload
    dsimp only
    split
    · next hw => exact .reset hw
    split
    · next hw hs => exact .rsvd hw hs
    rename_i hs
    rw [Bool.not_eq_true] at hs
    split
    · next hm => exact .foreign hs hm
    rename_i hm
    split
    · next hn => exact .notch hs hm hn
    rename_i hn
    rw [Bool.not_eq_true] at hn
    split
    · next hc => exact .commit hs hm hn hc
    split
    · next hc => exact .set .l0 hs hm hn hc
    split
    · next hc => exact .set .l1 hs hm hn hc
    · next h3 h0 h1 =>
      have hc : w.ch = 2#2 := by simpa [h0, h1, h3] using w.ch_cases
      exact .set .l2 hs hm hn hc

/-- and a rule that applies is the decoder's. -/
theorem Reads.decode_eq {sync : Sync} {dev : DevAddr} {w : Word} {i : Instr} (h : Reads dev w sync i) :
    decode sync dev w = i := by
  cases h with
  | unlock magic => simp [decode, unlockMagic, magic]
  | lockedDrop other => simp [decode, unlockMagic, other]
  | reset magic => simp [decode, resetMagic, magic]
  | rsvd other special => simp [decode, resetMagic, other, special]
  | foreign plain away => simp [decode, resetMagic, Word.ne_ones_of_plain plain, plain, away]
  | notch plain here sel => simp [decode, decodePayload, resetMagic, Word.ne_ones_of_plain plain, plain, here, sel]
  | commit plain here unsel ch => simp [decode, decodePayload, resetMagic, Word.ne_ones_of_plain plain, plain, here, unsel, ch]
  | set c plain here unsel ch =>
    cases c <;> simp [decode, decodePayload, resetMagic, Word.ne_ones_of_plain plain, plain, here, unsel, ch, Lane.idx, setCommand]

/-! ### Encode and decode -/

theorem reads_encode_setCommand {dev : DevAddr} (c : Lane) {a : BitVec 7} (v : BitVec 5) (h : a &&& dev ≠ 0#7) :
    Reads dev (encode (setCommand c a v)) .unlocked (setCommand c a v) := by
  obtain ⟨hs, ha, hn, hc, hv⟩ := encode_setCommand_fields c a v
  simpa only [ha, hv] using Reads.set c hs (by rwa [Word.addrMatch, ha]) hn hc

/-- The encoder's word of a command that meets its row's condition is read by the rule of that row. -/
theorem reads_encode {dev : DevAddr} {i : Instr} (h : i.wellFormed dev = true) :
    Reads dev (encode i) i.rowSync i := by
  cases i with
  | unlock => exact .unlock rfl
  | lockedDrop w => exact .lockedDrop (bne_iff_ne.1 h)
  | reset => exact .reset rfl
  | rsvd x =>
    obtain ⟨hs, hx⟩ := encode_rsvd_fields x
    have other : encode (.rsvd x) ≠ 0xFFFF#16 := fun hw =>
      bne_iff_ne.1 h (hx.symm.trans (congrArg (BitVec.extractLsb' 0 15) hw))
    simpa only [Instr.rowSync, hx] using Reads.rsvd (dev := dev) other hs
  | foreign a p =>
    obtain ⟨hs, ha, hp⟩ := encode_foreign_fields a p
    have away : a &&& dev = 0#7 := beq_iff_eq.1 h
    simpa only [Instr.rowSync, ha, hp] using Reads.foreign hs (by rwa [Word.addrMatch, ha])
  | notch a x sel val =>
    obtain ⟨hs, ha, hn, hx, hsel, hval⟩ := encode_notch_fields a x sel val
    have here : a &&& dev ≠ 0#7 := bne_iff_ne.1 h
    simpa only [Instr.rowSync, ha, hx, hsel, hval] using Reads.notch hs (by rwa [Word.addrMatch, ha]) hn
  | commit a x =>
    obtain ⟨hs, ha, hn, hc, hx⟩ := encode_commit_fields a x
    have here : a &&& dev ≠ 0#7 := bne_iff_ne.1 h
    simpa only [Instr.rowSync, ha, hx] using Reads.commit hs (by rwa [Word.addrMatch, ha]) hn hc
  | setCh0 a v => exact reads_encode_setCommand .l0 v (bne_iff_ne.1 h)
  | setCh1 a v => exact reads_encode_setCommand .l1 v (bne_iff_ne.1 h)
  | setCh2 a v => exact reads_encode_setCommand .l2 v (bne_iff_ne.1 h)

/-- A rule keeps every bit of the word: the encoder puts the fields back where they were read. -/
theorem Reads.encode_eq {sync : Sync} {dev : DevAddr} {w : Word} {i : Instr} (h : Reads dev w sync i) :
    encode i = w := by
  cases h with
  | unlock magic => exact magic.symm
  | lockedDrop other => rfl
  | reset magic => exact magic.symm
  | rsvd other special =>
    obtain ⟨hs, hx⟩ := encode_rsvd_fields (w.extractLsb' 0 15)
    simpa using extractLsb'_join hx (extractLsb'_one_congr (hs.trans special.symm))
  | foreign plain away =>
    obtain ⟨hs, ha, hp⟩ := encode_foreign_fields w.addr w.payload
    exact Word.eq_of_fields (hs.trans plain.symm) ha hp
  | notch plain here sel =>
    obtain ⟨hs, ha, hn, hx, hsel, hval⟩ := encode_notch_fields w.addr w.bit6 w.sel w.val
    exact Word.eq_of_fields (hs.trans plain.symm) ha (Word.payload_of_notch (hn.trans sel.symm) hx hsel hval)
  | commit plain here unsel ch =>
    obtain ⟨hs, ha, hn, hc, hx⟩ := encode_commit_fields w.addr w.value
    exact Word.eq_of_fields (hs.trans plain.symm) ha (Word.payload_of_channel (hn.trans unsel.symm) (hc.trans ch.symm) hx)
  | set c plain here unsel ch =>
    obtain ⟨hs, ha, hn, hc, hv⟩ := encode_setCommand_fields c w.addr w.value
    exact Word.eq_of_fields (hs.trans plain.symm) ha (Word.payload_of_channel (hn.trans unsel.symm) (hc.trans ch.symm) hv)

/-- A rule states its row's condition and its row's mode (R76). -/
theorem Reads.meets_row {sync : Sync} {dev : DevAddr} {w : Word} {i : Instr} (h : Reads dev w sync i) :
    i.wellFormed dev = true ∧ i.rowSync = sync := by
  cases h with
  | unlock magic => exact ⟨rfl, rfl⟩
  | lockedDrop other => exact ⟨bne_iff_ne.2 other, rfl⟩
  | reset magic => exact ⟨rfl, rfl⟩
  | rsvd other special =>
    refine ⟨bne_iff_ne.2 fun ones => other ?_, rfl⟩
    simpa using extractLsb'_join (w' := 0xFFFF#16) ones (extractLsb'_one_congr special)
  | foreign plain away => exact ⟨beq_iff_eq.2 away, rfl⟩
  | notch plain here sel => exact ⟨bne_iff_ne.2 here, rfl⟩
  | commit plain here unsel ch => exact ⟨bne_iff_ne.2 here, rfl⟩
  | set c plain here unsel ch => cases c <;> exact ⟨bne_iff_ne.2 here, rfl⟩

/-- Settles O1: the word is read by its row's rule, and the decoder follows the rules. -/
theorem decodeOfEncodeIsIdentity : Obligations.DecodeOfEncodeIsIdentity := fun _ _ h => (reads_encode h).decode_eq

/-- Settles O2: the rule by which the word was decoded keeps every bit of it. -/
theorem encodeOfDecodeIsIdentity : Obligations.EncodeOfDecodeIsIdentity := fun sync dev w =>
  (reads_decode sync dev w).encode_eq

/-- Settles O3: the rule by which the word was decoded states the row's condition and mode. -/
theorem decodedCommandMeetsItsRow : Obligations.DecodedCommandMeetsItsRow := fun sync dev w =>
  (reads_decode sync dev w).meets_row

/-! ### The opcode map -/

/-- A row's fixed bits, one by one (R76). -/
theorem Word.and_eq_iff (w mask want : Word) :
    w &&& mask = want ↔ ∀ i : Fin 16, (w.getLsbD i && mask.getLsbD i) = want.getLsbD i := by
  refine ⟨fun h i => ?_, fun h => BitVec.eq_of_getLsbD_eq fun i hi => ?_⟩
  · rw [← h, BitVec.getLsbD_and]
  · rw [BitVec.getLsbD_and]
    exact h ⟨i, hi⟩

theorem Word.ch_eq_iff (w : Word) (k : BitVec 2) :
    w.ch = k ↔ w.getLsbD 5 = k.getLsbD 0 ∧ w.getLsbD 6 = k.getLsbD 1 := by
  refine ⟨Word.ch_bits, fun ⟨h5, h6⟩ => BitVec.eq_of_getLsbD_eq fun i hi => ?_⟩
  interval_cases i
  · simpa [Word.ch] using h5
  · simpa [Word.ch] using h6

/-- The row of RSVD fixes bit 15, -/
theorem Word.and_rsvd_mask (w : Word) : w &&& 0x8000#16 = 0x8000#16 ↔ w.special = true := by
  simp [Word.and_eq_iff, Fin.forall_fin_succ, Word.special]

/-- as does that of FOREIGN; -/
theorem Word.and_foreign_mask (w : Word) : w &&& 0x8000#16 = 0#16 ↔ w.special = false := by
  simp [Word.and_eq_iff, Fin.forall_fin_succ, Word.special]

/-- the row of NOTCH fixes bit 7 too, -/
theorem Word.and_notch_mask (w : Word) :
    w &&& 0x8080#16 = 0x0080#16 ↔ w.notchsel = true ∧ w.special = false := by
  simp [Word.and_eq_iff, Fin.forall_fin_succ, Word.special, Word.notchsel]

/-- and the rows of COMMIT and SET fix the channel field as well. -/
theorem Word.and_channel_mask (w : Word) (k : BitVec 2) :
    w &&& 0x80E0#16 = wordField k 5 ↔ w.ch = k ∧ w.notchsel = false ∧ w.special = false := by
  simp [Word.and_eq_iff, Fin.forall_fin_succ, Word.special, Word.notchsel, Word.ch_eq_iff, wordField, and_assoc]

/-- Settles O4: under each rule, the fixed bits or the condition of every other row of that mode fail. -/
theorem exactlyOneRowTakesAWord : Obligations.ExactlyOneRowTakesAWord := by
  intro sync dev w
  have ones : w &&& 0xFFFF#16 = w := BitVec.and_allOnes
  have ch0 : w &&& 0x80E0#16 = 0x0000#16 ↔ _ := w.and_channel_mask 0#2
  have ch1 : w &&& 0x80E0#16 = 0x0020#16 ↔ _ := w.and_channel_mask 1#2
  have ch2 : w &&& 0x80E0#16 = 0x0040#16 ↔ _ := w.and_channel_mask 2#2
  have ch3 : w &&& 0x80E0#16 = 0x0060#16 ↔ _ := w.and_channel_mask 3#2
  simp only [opcodeRows, List.filter_cons, List.filter_nil, OpcodeRow.takes, RowCond.holds, Bool.and_eq_true, beq_iff_eq,
    bne_iff_ne, ones, w.and_rsvd_mask, w.and_foreign_mask, w.and_notch_mask, ch0, ch1, ch2, ch3]
  have h := reads_decode sync dev w
  generalize decode sync dev w = i at h
  cases h with
  | unlock magic => simp [magic, Instr.mnemonic]
  | lockedDrop other => simp [other, Instr.mnemonic]
  | reset magic => simp [magic, show Word.special 0xFFFF#16 = true from rfl, Instr.mnemonic]
  | rsvd other special => simp [other, special, Instr.mnemonic]
  | foreign plain away => simp [Word.ne_ones_of_plain plain, plain, away, Instr.mnemonic]
  | notch plain here sel => simp [Word.ne_ones_of_plain plain, plain, here, sel, Instr.mnemonic]
  | commit plain here unsel ch => simp [Word.ne_ones_of_plain plain, plain, here, unsel, ch, Instr.mnemonic]
  | set c plain here unsel ch =>
    cases c <;> simp [Word.ne_ones_of_plain plain, plain, here, unsel, ch, Lane.idx, setCommand, Instr.mnemonic]

/-! ### Words written out -/

/-- Settles O5: each word is closed, and the decoder runs on it. -/
theorem specWordsDecode : Obligations.SpecWordsDecode := by
  unfold Obligations.SpecWordsDecode
  decide

/-! ### Don't-care bits -/

/-- A command with the bits that its meaning does not look at cleared (R80, R102, R122 to R126). -/
def Instr.stripped : Instr → Instr
  | .unlock => .unlock
  | .lockedDrop _ => .lockedDrop 0#16
  | .reset => .reset
  | .rsvd _ => .rsvd 0#15
  | .foreign _ _ => .foreign 0#7 0#8
  | .notch _ _ sel val => .notch 0#7 0#1 sel val
  | .commit _ _ => .commit 0#7 0#5
  | .setCh0 _ v => .setCh0 0#7 v
  | .setCh1 _ v => .setCh1 0#7 v
  | .setCh2 _ v => .setCh2 0#7 v

theorem stripped_setCommand (c : Lane) (a : BitVec 7) (v : BitVec 5) :
    (setCommand c a v).stripped = setCommand c 0#7 v := by
  cases c <;> rfl

/-- Two words with bit 15 clear and the same match differ only in bits that no meaning looks at if they are the same command
with the same operands: the notch fields of a NOTCH, the channel of a COMMIT, the channel and the value of a SET. -/
theorem stripped_decode_congr {dev : DevAddr} {w w' : Word} (hs : w.special = false) (hs' : w'.special = false)
    (hm : w.addrMatch dev = w'.addrMatch dev) (hn : w.notchsel = w'.notchsel)
    (hnotch : w.notchsel = true → w.sel = w'.sel ∧ w.val = w'.val)
    (hchannel : w.notchsel = false → w.ch = w'.ch ∧ (w.ch ≠ 3#2 → w.value = w'.value)) :
    (decode .unlocked dev w).stripped = (decode .unlocked dev w').stripped := by
  have h := reads_decode .unlocked dev w
  generalize decode .unlocked dev w = i at h
  cases h with
  | reset magic => exact absurd magic (Word.ne_ones_of_plain hs)
  | rsvd other special => cases hs.symm.trans special
  | foreign plain away => rw [(Reads.foreign hs' (hm ▸ away)).decode_eq, Instr.stripped, Instr.stripped]
  | notch plain here sel =>
    obtain ⟨hsel, hval⟩ := hnotch sel
    rw [(Reads.notch hs' (hm ▸ here) (hn ▸ sel)).decode_eq, Instr.stripped, Instr.stripped, hsel, hval]
  | commit plain here unsel ch =>
    obtain ⟨hc, -⟩ := hchannel unsel
    rw [(Reads.commit hs' (hm ▸ here) (hn ▸ unsel) (hc ▸ ch)).decode_eq, Instr.stripped, Instr.stripped]
  | set c plain here unsel ch =>
    obtain ⟨hc, hv⟩ := hchannel unsel
    have not_commit : w.ch ≠ 3#2 := by rw [ch]; cases c <;> decide
    rw [(Reads.set c hs' (hm ▸ here) (hn ▸ unsel) (hc ▸ ch)).decode_eq, stripped_setCommand, stripped_setCommand,
      hv not_commit]

/-- Words that agree under a mask agree in each bit of the mask, -/
theorem getLsbD_congr_of_and {w w' mask : Word} (h : w &&& mask = w' &&& mask) (k : Nat)
    (hk : mask.getLsbD k = true) : w.getLsbD k = w'.getLsbD k := by
  simpa [hk] using congrArg (BitVec.getLsbD · k) h

/-- and in each field that it covers. -/
theorem extractLsb'_congr_of_and {w w' mask : Word} (h : w &&& mask = w' &&& mask) (k n : Nat)
    (hk : mask.extractLsb' k n = BitVec.allOnes n) : w.extractLsb' k n = w'.extractLsb' k n := by
  simpa [BitVec.extractLsb'_and, hk] using congrArg (BitVec.extractLsb' k n) h

/-- The payload is what the low byte's mask leaves (R71). -/
theorem Word.and_payload_mask (w : Word) : w &&& 0x00FF#16 = wordField w.payload 0 := by
  simp [Word.and_eq_iff, Fin.forall_fin_succ, wordField, Word.payload]

/-- A mask that covers bits 15:7 fixes `special`, the address field and `notchsel`. -/
theorem Word.head_congr_of_and {w w' mask : Word} (h : w &&& mask = w' &&& mask)
    (hmask : mask &&& 0xFF80#16 = 0xFF80#16) :
    w.special = w'.special ∧ w.addr = w'.addr ∧ w.notchsel = w'.notchsel := by
  have hhead : w &&& 0xFF80#16 = w' &&& 0xFF80#16 := by
    rw [← hmask, ← BitVec.and_assoc, h, BitVec.and_assoc]
  exact ⟨getLsbD_congr_of_and hhead 15 rfl, extractLsb'_congr_of_and hhead 8 7 rfl, getLsbD_congr_of_and hhead 7 rfl⟩

/-! ### The mode after a command -/

/-- The mode that a command leaves, from the mode `sync` (R101, R103, R120). -/
def Instr.syncAfter (sync : Sync) : Instr → Sync
  | .unlock => .unlocked
  | .reset => .locked
  | _ => sync

/-- The mode after the commands of the words `ws`, each decoded in the mode that the one before it left. -/
def syncAfterWords (dev : DevAddr) (sync : Sync) (ws : List Word) : Sync :=
  ws.foldl (fun sync w => (decode sync dev w).syncAfter sync) sync

theorem syncAfterWords_cons (dev : DevAddr) (sync : Sync) (w : Word) (ws : List Word) :
    syncAfterWords dev sync (w :: ws) = syncAfterWords dev ((decode sync dev w).syncAfter sync) ws := rfl

/-- The words of RESYNC are special, so no address can change what they are: they end in UNLOCKED from either mode (R82, R107). -/
theorem syncAfterWords_resync (dev : DevAddr) (sync : Sync) : syncAfterWords dev sync Machine.resync = .unlocked := by
  cases sync <;> rfl

end Sys2Proof

namespace Sys2Proof.Machine

theorem exec_stripped (i : Instr) (s : State) : exec i.stripped s = exec i s := by
  cases i <;> rfl

/-- Commands that differ only in bits that their meaning does not look at have the same effect. -/
theorem exec_congr_of_stripped {i j : Instr} (h : i.stripped = j.stripped) (s : State) : exec i s = exec j s := by
  rw [← exec_stripped i, h, exec_stripped]

/-- Settles O8: in each clause the two words are the same command but for bits that its meaning does not look at. -/
theorem dontCareBitsHaveNoEffect : Obligations.DontCareBitsHaveNoEffect := by
  intro s dev w w'
  refine ⟨fun hw hw' => ?dropped, fun hs hs' hw hw' => ?reserved, fun hs hs' hm hp => ?payload, fun hs hn h => ?notch,
    fun hs hn hc h => ?commit⟩ <;> apply exec_congr_of_stripped
  case dropped => rw [(Reads.lockedDrop hw).decode_eq, (Reads.lockedDrop hw').decode_eq, Instr.stripped, Instr.stripped]
  case reserved => rw [(Reads.rsvd hw hs).decode_eq, (Reads.rsvd hw' hs').decode_eq, Instr.stripped, Instr.stripped]
  case payload =>
    have low : w &&& 0x00FF#16 = w' &&& 0x00FF#16 := by rw [w.and_payload_mask, w'.and_payload_mask, hp]
    exact stripped_decode_congr hs hs' hm (getLsbD_congr_of_and low 7 rfl)
      (fun _ => ⟨extractLsb'_congr_of_and low 3 3 rfl, extractLsb'_congr_of_and low 0 3 rfl⟩)
      (fun _ => ⟨extractLsb'_congr_of_and low 5 2 rfl, fun _ => extractLsb'_congr_of_and low 0 5 rfl⟩)
  case notch =>
    obtain ⟨hspecial, haddr, hsel⟩ := Word.head_congr_of_and h rfl
    exact stripped_decode_congr hs (hspecial ▸ hs) (congrArg (· &&& dev) haddr) hsel
      (fun _ => ⟨extractLsb'_congr_of_and h 3 3 rfl, extractLsb'_congr_of_and h 0 3 rfl⟩)
      (fun unsel => absurd unsel (by rw [hn]; decide))
  case commit =>
    obtain ⟨hspecial, haddr, hsel⟩ := Word.head_congr_of_and h rfl
    exact stripped_decode_congr hs (hspecial ▸ hs) (congrArg (· &&& dev) haddr) hsel
      (fun sel => absurd sel (by rw [hn]; decide))
      (fun _ => ⟨extractLsb'_congr_of_and h 5 2 rfl, absurd hc⟩)

/-! ### The step of a command -/

/-- Settles O25: with nothing happening outside the step is the core's, and in EXEC the core's is the command step. -/
theorem stepRunsTheDecodedCommand : Obligations.StepRunsTheDecodedCommand := by
  intro s v w rest hv ha hmoves
  rw [step_of_coreMoves hmoves]
  exact State.coreStep_exec (s := { s with inputs := rest }) hv ha

/-- The two bytes of a word, high byte first, are read back as the word (R54). -/
theorem decodeBytes_wordBytes (sync : Sync) (dev : DevAddr) (w : Word) :
    decodeBytes sync dev (wordBytes w) = .ok (decode sync dev w) := by
  have joined : w.extractLsb' 8 8 ++ w.extractLsb' 0 8 = w :=
    (BitVec.extractLsb'_append_extractLsb'_eq_extractLsb' rfl).trans BitVec.extractLsb'_eq_self
  rw [wordBytes, decodeBytes, joined]

/-- Settles O9: both sides read the word in the mode and at the address of log 12. -/
theorem placedWordIsRun : Obligations.PlacedWordIsRun := by
  intro s w hw
  have hword : tableWord 16 w = some (BitVec.ofNat 16 w) := if_pos ⟨le_refl _, hw⟩
  refine ⟨decode (tableSync (BitVec.ofNat 16 w)) tableDevice (BitVec.ofNat 16 w), ?_, ?_⟩
  · simp only [decodeTableWord, hword, decodeBytes_wordBytes]
  · rw [State.withFetchWord, hword]
    exact step_aboutToRun s _

/-! ### Resynchronization -/

/-- UNLOCK and RESET write the mode, and no other command does. -/
theorem exec_syncAfter {i : Instr} {s t : State} {v u : Volatile} (h : exec i s = .next t) (hv : s.live = some v)
    (hu : t.live = some u) : u.sync = i.syncAfter v.sync := by
  obtain ⟨v', hv', hc⟩ := exec_cases h
  cases hv.symm.trans hv'
  rcases hc with ⟨rfl, rfl⟩ | ⟨⟨w, rfl⟩, rfl⟩ | ⟨rfl, rfl⟩ | ⟨⟨x, rfl⟩ | ⟨a, p, rfl⟩, rfl⟩ | ⟨a, x, sel, val, rfl, rfl⟩ |
    ⟨c, a, d, rfl, rfl⟩ | ⟨a, x, rfl, rfl⟩ <;> cases hu
  on_goal 7 => cases c
  all_goals rfl

/-- No command looks at what the environment does next (log 1). -/
theorem exec_inputs {i : Instr} {s t : State} (h : exec i s = .next t) : t.inputs = s.inputs := by
  obtain ⟨v, -, hc⟩ := exec_cases h
  rcases hc with ⟨-, rfl⟩ | ⟨-, rfl⟩ | ⟨-, rfl⟩ | ⟨-, rfl⟩ | ⟨_, _, _, _, -, rfl⟩ | ⟨_, _, _, -, rfl⟩ | ⟨_, _, -, rfl⟩
  all_goals rfl

/-- The quiescent point of R235, in the mode `sync`. -/
def State.QuiescentIn (s : State) (sync : Sync) : Prop :=
  ∃ v, s.live = some v ∧ v.activity = .sleep ∧ v.ready = false ∧ v.rx = .armed ∧ v.sync = sync

theorem State.quiescent_iff {s : State} : s.Quiescent ↔ ∃ sync, s.QuiescentIn sync :=
  ⟨fun ⟨v, hv, ha, hready, hrx⟩ => ⟨v.sync, v, hv, ha, hready, hrx, rfl⟩,
    fun ⟨_, v, hv, ha, hready, hrx, _⟩ => ⟨v, hv, ha, hready, hrx⟩⟩

/-- A word delivered to a sleeping device, and fetched (R202, R203). -/
theorem runSteps_word_fetch {s : State} {v : Volatile} {w : Word} {rest : List Input} (hv : s.live = some v)
    (ha : v.activity = .sleep) (hrx : v.rx = .armed) (hi : s.inputs = .word w :: .run :: rest) :
    ∃ t, runSteps 2 s = .next t ∧ t.params = s.params ∧ t.inputs = rest ∧ t.live = some ((v.capture w).take w) := by
  rw [runSteps_of_step (step_word_armed hv hrx hi),
    runSteps_of_step (step_run_fetch (v := v.capture w) rfl ha rfl rfl rfl)]
  exact ⟨_, rfl, rfl, rfl, rfl⟩

/-- The core's step after a command, the backoff end or the stutter, leaves the device quiescent (R106, log 2). -/
theorem step_after_command {s : State} {v : Volatile} {rest : List Input} (hv : s.live = some v)
    (hready : v.ready = false) (hend : (v.rx = .armed ∧ v.activity = .sleep) ∨ v.activity = .backoff)
    (hi : s.inputs = .run :: rest) :
    ∃ t, step s = .next t ∧ t.params = s.params ∧ t.inputs = rest ∧ t.QuiescentIn v.sync := by
  rw [step_of_coreMoves (.inl hi)]
  rcases hend with ⟨hrx, ha⟩ | ha
  · rw [State.coreStep_sleep (s := { s with inputs := rest }) hv ha, hready]
    exact ⟨_, rfl, rfl, rfl, v, hv, ha, hready, hrx, rfl⟩
  · rw [State.coreStep_backoff (s := { s with inputs := rest }) hv ha, State.backoffEnd_eq]
    exact ⟨_, rfl, rfl, rfl, v.rearm, rfl, rfl, hready, rfl, rfl⟩

/-- A command, and the step after it (R100, R106). -/
theorem runSteps_command {s : State} {v : Volatile} {w : Word} {rest : List Input} (hv : s.live = some v)
    (ha : v.activity = .exec w) (hready : v.ready = false) (hi : s.inputs = .run :: .run :: rest) :
    ∃ t, runSteps 2 s = .next t ∧ t.params = s.params ∧ t.inputs = rest ∧
      t.QuiescentIn ((decode v.sync s.params.devAddr w).syncAfter v.sync) := by
  obtain ⟨t, ht⟩ := exec_of_live (s := { s with inputs := .run :: rest }) hv (decode v.sync s.params.devAddr w)
  have hstep : step s = .next t := (stepRunsTheDecodedCommand s v w _ hv ha (.inl hi)).trans ht
  obtain ⟨v', u, hv', hu, hclear, -, hend⟩ := exec_sequencer ht
  cases hv.symm.trans hv'
  obtain ⟨x, hx, hparams, hinputs, hquiet⟩ :=
    step_after_command hu (hclear.trans hready) (hend.imp_right And.right) (exec_inputs ht)
  rw [exec_syncAfter ht hv hu] at hquiet
  exact ⟨x, (runSteps_of_step hstep 1).trans (runSteps_of_step hx 0), hparams.trans (State.continues_exec ht).1, hinputs,
    hquiet⟩

/-- Whole words delivered to a quiescent device one by one, each with three steps of its core, leave it quiescent, in the mode
that their commands leave (R202, R203, R100, R106). -/
theorem runSteps_words {ws : List Word} {s : State} {sync : Sync} (hs : s.QuiescentIn sync)
    (hi : s.inputs = ws.flatMap fun w => [.word w, .run, .run, .run]) :
    ∃ t, runSteps (4 * ws.length) s = .next t ∧ t.QuiescentIn (syncAfterWords s.params.devAddr sync ws) := by
  induction ws generalizing s sync with
  | nil => exact ⟨s, rfl, hs⟩
  | cons w ws ih =>
    obtain ⟨v, hv, ha, -, hrx, rfl⟩ := hs
    obtain ⟨t, ht, htparams, htinputs, htlive⟩ := runSteps_word_fetch hv ha hrx hi
    obtain ⟨u, hu, huparams, huinputs, hquiet⟩ := runSteps_command (w := w) htlive rfl rfl htinputs
    obtain ⟨x, hx, hend⟩ := ih hquiet huinputs
    refine ⟨x, ?_, ?_⟩
    · rw [List.length_cons, show 4 * (ws.length + 1) = 2 + (2 + 4 * ws.length) by omega, runSteps_add ht,
        runSteps_add hu, hx]
    · rw [syncAfterWords_cons, ← htparams]
      rwa [huparams] at hend

/-- Settles O57: whole words keep a device quiescent, and the commands of these four end in UNLOCKED from either mode. -/
theorem resyncReachesUnlocked : Obligations.ResyncReachesUnlocked := by
  intro s hs hi
  obtain ⟨sync, hq⟩ := State.quiescent_iff.1 hs
  obtain ⟨t, ht, hend⟩ := runSteps_words hq hi
  have hquiet := State.quiescent_iff.2 ⟨_, hend⟩
  obtain ⟨v, hv, -, -, -, hsync⟩ := hend
  exact ⟨t, v, ht, hquiet, hv, hsync.trans (syncAfterWords_resync ..)⟩

end Sys2Proof.Machine
end

section
/-! SUPPORT. The proofs of the statements about the synchronization state machine (`40_sync.md`). -/

namespace Sys2Proof.Machine

/-! ### The commands on a powered device -/

theorem exec_unlock_of_live {s : State} {v : Volatile} (hv : s.live = some v) :
    exec .unlock s =
      .next { s with
        live := some { v with sync := .unlocked, rx := .armed, activity := .sleep }, trace := s.trace ++ [.arm] } :=
  (exec_unlock s).trans (State.command_of_live hv _)

theorem exec_lockedDrop_of_live {s : State} {v : Volatile} (hv : s.live = some v) (w : Word) :
    exec (.lockedDrop w) s =
      .next { s with live := some { v with activity := .backoff }, trace := s.trace ++ [.backoffBegin] } :=
  (exec_lockedDrop w s).trans (State.command_of_live hv _)

/-- RSVD and FOREIGN are the re-arm and nothing else (R122, R123). -/
theorem exec_ignored_of_live {s : State} {v : Volatile} {i : Instr} (hv : s.live = some v)
    (hi : (∃ x, i = .rsvd x) ∨ ∃ a p, i = .foreign a p) :
    exec i s =
      .next { s with live := some { v with rx := .armed, activity := .sleep }, trace := s.trace ++ [.arm] } := by
  rcases hi with ⟨x, rfl⟩ | ⟨a, p, rfl⟩
  · exact (exec_rsvd x s).trans (State.command_of_live hv _)
  · exact (exec_foreign a p s).trans (State.command_of_live hv _)

/-- The lines after a restore and a drive of the settings `a`, as boot and RESET leave them (R103, R231). -/
def restoredPins (g : GpioPoweron) (a : Triple Byte) : Pins :=
  ⟨g.notch, bitWire (a.l2.getLsbD 0), .low, Triple.const .deasserted⟩

/-- The parts of a RESET run one after another, in the order of D11. -/
theorem exec_reset_of_live {s : State} {v : Volatile} (hv : s.live = some v) :
    exec .reset s =
      .next { s with
        live := some { v with
          sync := .locked
          att := s.nvRecord
          pins := restoredPins s.params.gpioPoweron s.nvRecord
          rx := .armed
          activity := .sleep }
        trace := s.trace ++ lineEvents (gpioDefaultWrites s.params.gpioPoweron) ++ loadEvents s.nvRecord ++
          driveAllEvents s.nvRecord ++ [.arm] } := by
  rw [exec_reset, State.command_of_live hv, Running.gpioDefaults_eq, Running.load_eq, Running.driveAll_eq]
  rfl

/-! ### What is said of a LOCKED device -/

/-- Loaded settings and restored lines are what R108 asks for. -/
theorem State.lockedSettled_of_restored {s : State} {v : Volatile} (hv : s.live = some v) (hatt : v.att = s.nvRecord)
    (hpins : v.pins = restoredPins s.params.gpioPoweron s.nvRecord) : s.LockedSettled := by
  intro u hu _
  cases hv.symm.trans hu
  rw [hatt, hpins]
  exact ⟨s.nvRecord_get, rfl, Triple.get_const _, rfl, rfl⟩

/-- Nothing is said of a device that is UNLOCKED. -/
theorem State.lockedSettled_of_unlocked {s : State} {v : Volatile} (hv : s.live = some v) (hsync : v.sync = .unlocked) :
    s.LockedSettled := by
  intro u hu hlocked
  cases hv.symm.trans hu
  exact nomatch hsync.symm.trans hlocked

/-- A step that writes neither record, mode, settings nor lines keeps what is said of them. -/
theorem State.QuietTo.lockedSettled {s t : State} (h : s.QuietTo t) (hs : s.LockedSettled) : t.LockedSettled := by
  intro u hu hlocked
  obtain ⟨hp, hnv, hlive⟩ := h
  obtain ⟨v, hv, hsync, hatt, hpins⟩ := hlive u hu
  simp only [hp, hatt, hpins, State.nvByte_congr hp hnv]
  exact hs v hv (hsync ▸ hlocked)

/-- From LOCKED a decoded command is UNLOCK or changes nothing of this; from UNLOCKED only RESET locks, and it restores (R101 to
R103, R120). -/
theorem lockedSettled_exec {s t : State} {v : Volatile} {w : Word} (hs : s.LockedSettled) (hv : s.live = some v)
    (h : exec (s.commandFor v w) s = .next t) : t.LockedSettled := by
  rw [State.commandFor] at h
  cases hsync : v.sync with
  | locked =>
    rw [hsync] at h
    rcases decode_locked s.params.devAddr w with ⟨hi, -⟩ | ⟨hi, -⟩ <;> rw [hi] at h
    · cases (exec_unlock_of_live hv).symm.trans h
      exact State.lockedSettled_of_unlocked rfl rfl
    · cases (exec_lockedDrop_of_live hv w).symm.trans h
      exact State.QuietTo.lockedSettled (State.quietTo_of_live hv rfl rfl rfl rfl rfl rfl) hs
  | unlocked =>
    obtain ⟨-, u, -, hu, -⟩ := exec_sequencer h
    rcases exec_sync h hv hu with hi | hi | hkept
    · obtain ⟨hlocked, -⟩ := decode_eq_unlock hi
      exact nomatch hsync.symm.trans hlocked
    · rw [hi] at h
      cases (exec_reset_of_live hv).symm.trans h
      exact State.lockedSettled_of_restored rfl rfl rfl
    · exact State.lockedSettled_of_unlocked hu (hkept.trans hsync)

/-- Settles O40: boot and RESET establish it, no other command writes lines, settings or record while LOCKED, and a device without
power is not LOCKED. -/
theorem lockedSettledKept : Obligations.LockedSettledKept := by
  intro s t hs h
  cases step_effect h with
  | command xs hv ha he => exact lockedSettled_exec (s := { s with inputs := xs }) hs hv he
  | boot xs off =>
    rw [State.boot_eq]
    exact State.lockedSettled_of_restored rfl rfl rfl
  | torn hi hc => rintro u ⟨⟩
  | quiet hq => exact hq.lockedSettled hs

/-! ### What the commands do, and what they leave -/

/-- Settles O12: the word is decoded in either mode, and the parts of a RESET are written out. -/
theorem resetReloadsAndDrives : Obligations.ResetReloadsAndDrives := by
  refine ⟨fun dev => ⟨(Reads.reset rfl).decode_eq, (Reads.lockedDrop (by decide)).decode_eq⟩, fun s v hv => ?_⟩
  have transfers : driveAllEvents s.nvRecord =
      lineEvents (transferWrites .l0 (s.nvByte .l0)) ++ lineEvents (transferWrites .l1 (s.nvByte .l1)) ++
        lineEvents (transferWrites .l2 (s.nvByte .l2)) := by
    simp [driveAllEvents, Lane.all, State.nvRecord_get]
  rw [exec_reset_of_live hv, transfers]
  simp only [List.append_assoc]
  rfl

/-- Settles O20: the closed form of each of the four. -/
theorem frameOfSilentCommands : Obligations.FrameOfSilentCommands := by
  intro s t v i hv hi h
  rcases hi with rfl | ⟨w, rfl⟩ | hi
  · cases (exec_unlock_of_live hv).symm.trans h
    exact ⟨rfl, rfl, fun _ => rfl, _, rfl, rfl, rfl, rfl, rfl, absurd rfl, fun ⟨_, hw⟩ => nomatch hw⟩
  · cases (exec_lockedDrop_of_live hv w).symm.trans h
    exact ⟨rfl, rfl, fun _ => rfl, _, rfl, rfl, rfl, rfl, rfl, fun _ => rfl, fun _ => rfl⟩
  · cases (exec_ignored_of_live hv hi).symm.trans h
    refine ⟨rfl, rfl, fun _ => rfl, _, rfl, rfl, rfl, rfl, rfl, fun _ => rfl, ?_⟩
    rintro ⟨w, rfl⟩
    simp at hi

/-- Settles O24: the closed form of RESET writes none of them. -/
theorem frameOfReset : Obligations.FrameOfReset := by
  intro s t v hv h
  cases (exec_reset_of_live hv).symm.trans h
  exact ⟨rfl, rfl, fun _ => rfl, _, rfl, rfl, rfl⟩

theorem newEvents_of_trace {s t : State} {es : List Event} (h : t.trace = s.trace ++ es) : newEvents s t = es := by
  rw [newEvents, h, List.drop_left]

/-- Settles O50: the word is decoded as LOCKED_DROP. -/
theorem lockedIsolation : Obligations.LockedIsolation := by
  intro s v w rest hv hsync ha hw hmoves
  have hstep := stepRunsTheDecodedCommand s v w rest hv ha hmoves
  rw [hsync, (Reads.lockedDrop hw).decode_eq, exec_lockedDrop_of_live (s := { s with inputs := rest }) hv] at hstep
  exact ⟨_, _, hstep, rfl, hsync, rfl, rfl, rfl, newEvents_of_trace rfl⟩

/-- Settles O10: the magic word is UNLOCK while LOCKED and a special word while UNLOCKED. -/
theorem unlockEntersUnlocked : Obligations.UnlockEntersUnlocked :=
  ⟨fun _ => ⟨(Reads.unlock rfl).decode_eq, (Reads.rsvd (by decide) rfl).decode_eq⟩, fun _ _ => exec_unlock_of_live⟩

/-- Settles O11: the rule of the decoder for any other word, and the closed form of LOCKED_DROP. -/
theorem lockedDropBeginsBackoff : Obligations.LockedDropBeginsBackoff :=
  ⟨fun _ _ hw => (Reads.lockedDrop hw).decode_eq, fun _ _ w hv => exec_lockedDrop_of_live hv w⟩

/-! ### The backoff end -/

/-- Settles O30: in BACKOFF the core's step is the backoff end. -/
theorem backoffEndRearms : Obligations.BackoffEndRearms := by
  intro s v rest hv ha hmoves
  rw [step_of_coreMoves hmoves, State.coreStep_backoff (s := { s with inputs := rest }) hv ha, State.backoffEnd_eq]
  rfl

end Sys2Proof.Machine
end

section
/-! SUPPORT. The proofs of the statements about the command decoder (`41_decoder.md`). -/

namespace Sys2Proof

/-! ### The address match -/

/-- A bit string of two parts is zero when both parts are. -/
theorem bits_append_eq_zero_iff {m n : Nat} (x : BitVec m) (y : BitVec n) : x ++ y = 0#(m + n) ↔ x = 0#m ∧ y = 0#n := by
  simp only [← BitVec.toNat_inj, BitVec.toNat_append, BitVec.toNat_ofNat, Nat.zero_mod, Nat.or_eq_zero_iff,
    Nat.shiftLeft_eq_zero_iff]

/-- A group bit in common is a group bit set on both sides (R128). -/
theorem groupBits_and_ne_zero (G g : BitVec 1) : G &&& g ≠ 0#1 ↔ G = 1#1 ∧ g = 1#1 := by
  revert G g
  decide

/-- Settles O7: the AND is taken part by part, and it is zero when both parts are. -/
theorem addressMatchByGroupAndController : Obligations.AddressMatchByGroupAndController := by
  intro G g M c w hw
  have parts : w.addrMatch (g ++ c) = (G &&& g) ++ (M &&& c) := by
    rw [Word.addrMatch, hw]
    exact BitVec.and_append
  rw [parts, ← groupBits_and_ne_zero, Ne, bits_append_eq_zero_iff (G &&& g) (M &&& c), not_and_or]

/-- Settles O6: the rule of FOREIGN gives one direction, and the condition of its row the other (R76). -/
theorem foreignExactlyWhenNoMatch : Obligations.ForeignExactlyWhenNoMatch := by
  refine fun dev w hs => ⟨fun h => ?_, fun away => (Reads.foreign hs away).decode_eq⟩
  obtain ⟨hrow, -⟩ := decodedCommandMeetsItsRow .unlocked dev w
  rw [h] at hrow
  exact beq_iff_eq.1 hrow

/-! ### Writes of indexed triples -/

/-- Of two writes at one index the later stands. -/
@[simp] theorem Triple.set_set {α : Type} (t : Triple α) (i : Lane) (x y : α) : (t.set i x).set i y = t.set i y := by
  cases i <;> rfl

end Sys2Proof

namespace Sys2Proof.Machine

/-! ### The operands of NOTCH and SET -/

/-- The notch lines after a NOTCH with these select and value bits, from the lines `old` (R140, R144). -/
def notchesAfter (sel val : BitVec 3) (old : Triple Switch) : Triple Switch :=
  ⟨notchAfter (notchOperand sel val) old .l0, notchAfter (notchOperand sel val) old .l1,
    notchAfter (notchOperand sel val) old .l2⟩

theorem notchesAfter_get (sel val : BitVec 3) (old : Triple Switch) (i : Lane) :
    (notchesAfter sel val old).get i =
      if sel.getLsbD i.idx then notchLevel (val.getLsbD i.idx) else old.get i := by
  rw [← notchAfter_operand]
  cases i <;> rfl

/-- One event for each selected notch, in the order 0, 1, 2 (R141, R142). -/
theorem lineEvents_notchWrites (sel val : BitVec 3) :
    lineEvents (notchWrites (notchOperand sel val)) =
      Lane.all.flatMap fun i =>
        if sel.getLsbD i.idx then [.line (.notch i (notchLevel (val.getLsbD i.idx)))] else [] := by
  rw [lineEvents, notchWrites, List.map_flatMap]
  congr 1
  funext i
  rw [notchWrite, notchOperand_select, notchOperand_value]
  split <;> rfl

/-- The low bit of a setting is that of its 5-bit field (R73). -/
theorem settingOperand_bit0 (d : BitVec 5) : (settingOperand d).getLsbD 0 = d.getLsbD 0 := by
  simp [settingOperand]

/-! ### The closed forms of NOTCH, SET and COMMIT -/

theorem exec_notch_of_live {s : State} {v : Volatile} (hv : s.live = some v) (a : BitVec 7) (x : BitVec 1)
    (sel val : BitVec 3) :
    exec (.notch a x sel val) s =
      .next { s with
        live := some { v with
          pins := { v.pins with notch := notchesAfter sel val v.pins.notch }
          rx := .armed
          activity := .sleep }
        trace := s.trace ++ lineEvents (notchWrites (notchOperand sel val)) ++ [.arm] } := by
  rw [exec_notch, State.command_of_live hv, Running.notchApply_eq]
  rfl

/-- The setting is stored, and the channel is driven with it (R125, R150). -/
theorem exec_setCommand_of_live {s : State} {v : Volatile} (hv : s.live = some v) (c : Lane) (a : BitVec 7)
    (d : BitVec 5) :
    exec (setCommand c a d) s =
      .next { s with
        live := some { v with
          att := v.att.set c (settingOperand d)
          pins := { v.pins with
            data := bitWire (d.getLsbD 0)
            clk := .low
            en := v.pins.en.set c .deasserted }
          rx := .armed
          activity := .sleep }
        trace := s.trace ++ (lineEvents (transferWrites c (settingOperand d)) ++ [.arm]) } := by
  rw [exec_setCommand, State.command_of_live hv, Running.setChannel, Running.drive_eq, Running.setAtt_att,
    Triple.get_set_self, settingOperand_bit0, ← List.append_assoc]
  rfl

/-- The record is erased and then written with the settings (R126, R170). -/
theorem exec_commit_of_live {s : State} {v : Volatile} (hv : s.live = some v) (a : BitVec 7) (x : BitVec 5) :
    exec (.commit a x) s =
      .next { s with
        nv := Memory.writeAll s.params.nvInit (Memory.writeAll s.params.nvInit s.nv s.params.nvErased) v.att
        live := some { v with rx := .armed, activity := .sleep }
        trace := s.trace ++ (commitEvents v.att ++ [.arm]) } := by
  rw [exec_commit, State.attempt_of_live hv (by rw [Running.commit_eq]), ← List.append_assoc]
  rfl

/-! ### What the decoder's commands do -/

/-- Settles O13: the rules of the two rows, and the closed form that the two commands share. -/
theorem ignoredCommandsOnlyRearm : Obligations.IgnoredCommandsOnlyRearm :=
  ⟨fun _ _ hs hw => (Reads.rsvd hw hs).decode_eq, fun _ _ hs away => (Reads.foreign hs away).decode_eq,
    fun _ _ x a p hv => ⟨exec_ignored_of_live hv (.inl ⟨x, rfl⟩), exec_ignored_of_live hv (.inr ⟨a, p, rfl⟩)⟩⟩

/-- Settles O14: the rule of NOTCH, and its closed form with the writes and the levels said for each notch. -/
theorem notchDrivesSelectedLines : Obligations.NotchDrivesSelectedLines := by
  refine ⟨fun _ _ hs here hn => (Reads.notch hs here hn).decode_eq, fun s v a x sel val hv => ?_⟩
  refine ⟨notchesAfter sel val v.pins.notch, ?_, notchesAfter_get sel val v.pins.notch⟩
  rw [exec_notch_of_live hv, lineEvents_notchWrites]
  rfl

/-- Settles O15: the rule of SET, and its closed form with the 34 line writes written out. -/
theorem setStoresAndDrives : Obligations.SetStoresAndDrives := by
  refine ⟨fun _ _ c hs here hn hc => (Reads.set c hs here hn ?_).decode_eq, fun s v c a d hv => ?_⟩
  · rw [← hc, BitVec.ofNat_toNat, BitVec.setWidth_eq, Word.ch]
  · rw [exec_setCommand_of_live hv]
    simp only [List.append_assoc]
    rfl

/-- Settles O16: the rule of COMMIT, and its closed form, whose record reads as the settings. -/
theorem commitWritesTheRecord : Obligations.CommitWritesTheRecord := by
  refine ⟨fun _ _ hs here hn hc => (Reads.commit hs here hn hc).decode_eq, fun s v a x hm hv => ?_⟩
  exact ⟨_, exec_commit_of_live hv a x, fun c => Memory.read_writeAll _ _ _ c (Memory.wf_writeAll _ _ _ hm)⟩

/-- Settles O55: the second SET stores the byte that is there already, and a SET's events are those of its operand. -/
theorem setTwiceIsIdempotent : Obligations.SetTwiceIsIdempotent := by
  intro s v c a d hv
  refine ⟨_, _, _, _, exec_setCommand_of_live hv c a d, exec_setCommand_of_live rfl c a d, rfl, rfl, ?_, ?_⟩
  · exact Triple.set_set ..
  · rw [newEvents_of_trace rfl, newEvents_of_trace rfl]

/-! ### What the commands leave unchanged -/

/-- Settles O21: the closed form of NOTCH writes the notch lines only, and of these the selected ones. -/
theorem frameOfNotch : Obligations.FrameOfNotch := by
  intro s t v a x sel val hv h
  cases (exec_notch_of_live hv a x sel val).symm.trans h
  refine ⟨rfl, rfl, fun _ => rfl, _, rfl, rfl, rfl, rfl, rfl, rfl, rfl, rfl, fun i unselected => ?_⟩
  rw [notchesAfter_get, unselected]
  rfl

/-- Settles O22: the closed form of SET writes one setting and one enable. -/
theorem frameOfSet : Obligations.FrameOfSet := by
  intro s t v c a d hv h
  cases (exec_setCommand_of_live hv c a d).symm.trans h
  exact ⟨rfl, rfl, fun _ => rfl, _, rfl, rfl, rfl, rfl, rfl, fun _ other =>
    ⟨Triple.get_set_of_ne _ _ other.symm, Triple.get_set_of_ne _ _ other.symm⟩⟩

/-- Settles O23: the closed form of COMMIT writes none of them. -/
theorem frameOfCommit : Obligations.FrameOfCommit := by
  intro s t v a x hv h
  cases (exec_commit_of_live hv a x).symm.trans h
  exact ⟨rfl, rfl, _, rfl, rfl, rfl, rfl, rfl, rfl⟩

/-- Settles O51: the word is decoded as FOREIGN. -/
theorem addressIsolation : Obligations.AddressIsolation := by
  intro s v w rest hv hsync ha hs away hmoves
  have hstep := stepRunsTheDecodedCommand s v w rest hv ha hmoves
  rw [hsync, (Reads.foreign hs away).decode_eq,
    exec_ignored_of_live (s := { s with inputs := rest }) hv (.inr ⟨_, _, rfl⟩)] at hstep
  exact ⟨_, _, hstep, rfl, hsync, rfl, rfl, rfl, newEvents_of_trace rfl⟩

end Sys2Proof.Machine
end

section
/-! SUPPORT. The proofs of the statements about the attenuator driver (`43_attenuator.md`). -/

namespace Sys2Proof.Machine

/-! ### One enable at a time, in whole steps and in cut ones -/

/-- Events without an assertion of an enable. -/
theorem exclusiveEvents_of_not_mem {es : List Event} (h : ∀ d, .line (.en d .asserted) ∉ es) : ExclusiveEvents es :=
  exclusiveEvents_of_assertsNone fun _ _ he d hd => absurd (hd ▸ he) (h d)

theorem exclusiveEvents_nil : ExclusiveEvents [] := exclusiveEvents_of_not_mem fun _ => List.not_mem_nil

/-- The events of a NOTCH assert no enable (R140). -/
theorem exclusiveEvents_notch (f : BitVec 6) : ExclusiveEvents (lineEvents (notchWrites f)) := by
  refine exclusiveEvents_of_not_mem fun d => ?_
  simp [lineEvents, notchWrites, notchWrite]

/-- The power-on writes no line. -/
theorem ExclusiveEvents.of_powerOn_cons {es : List Event} (h : ExclusiveEvents (.powerOn :: es)) : ExclusiveEvents es := by
  intro p hp
  obtain ⟨hone, hno⟩ := h p hp
  exact ⟨fun k => hone (k + 1), hno⟩

/-- A RESET has the events of a boot but the power-on (R103, R231). -/
theorem exclusiveEvents_reset (g : GpioPoweron) (r : Triple Byte) :
    ExclusiveEvents (lineEvents (gpioDefaultWrites g) ++ loadEvents r ++ driveAllEvents r ++ [.arm]) :=
  (exclusiveEvents_boot g r).of_powerOn_cons

/-- A power loss may cut such events at any point: it leaves every line undriven (R232). -/
theorem ExclusiveEvents.cut {es : List Event} (h : ExclusiveEvents es) (k : Nat) :
    ExclusiveEvents (es.take k ++ [.powerLoss]) := by
  intro p hp
  obtain ⟨hone, -⟩ := h p hp
  have hprefix : OneEnableFrom p (es.take k) := fun j => by rw [List.take_take]; exact hone _
  have hloss : OneEnableFrom ((es.take k).foldl Pins.afterEvent p) [.powerLoss] := fun j =>
    match j with
    | 0 => hone k
    | j + 1 => by
      rw [List.take_succ_cons, List.take_nil]
      exact (Pins.noEnable_undriven.onlyEnable .l0).oneEnable
  exact ⟨hprefix.append hloss, by rw [List.foldl_append]; exact Pins.noEnable_undriven⟩

/-- The events of a whole command, the commands one by one. -/
theorem exclusiveEvents_exec {i : Instr} {s t : State} (h : exec i s = .next t) : ExclusiveEvents (newEvents s t) := by
  have arm : ExclusiveEvents [.arm] := exclusiveEvents_of_not_mem (by simp)
  obtain ⟨v, -, hc⟩ := exec_cases h
  rcases hc with ⟨-, rfl⟩ | ⟨-, rfl⟩ | ⟨-, rfl⟩ | ⟨-, rfl⟩ | ⟨_, _, _, _, -, rfl⟩ | ⟨_, _, _, -, rfl⟩ | ⟨_, _, -, rfl⟩
    <;> rw [newEvents_of_trace rfl]
  · exact arm
  · exact exclusiveEvents_of_not_mem (by simp)
  · exact exclusiveEvents_reset _ _
  · exact arm
  · exact (exclusiveEvents_notch _).append arm
  · exact (exclusiveEvents_transfer _ _).append arm
  · exact exclusiveEvents_of_not_mem (by simp)

/-- The events of the core's enabled step (R206). -/
theorem exclusiveEvents_coreStep {s t : State} (h : s.coreStep = .next t) : ExclusiveEvents (newEvents s t) := by
  rcases State.coreStep_cases h with
    rfl | ⟨_, _, -, -, -, -, rfl⟩ | ⟨_, _, -, -, he⟩ | ⟨_, -, -, rfl⟩
  · rw [newEvents_of_trace (List.append_nil _).symm]
    exact exclusiveEvents_nil
  · rw [newEvents_of_trace rfl]
    exact exclusiveEvents_of_not_mem (by simp)
  · exact exclusiveEvents_exec he
  · rw [newEvents_of_trace rfl]
    exact exclusiveEvents_of_not_mem (by simp)

/-- The events of the step that a power loss would cut (R232). -/
theorem exclusiveEvents_inFlight (s : State) : ExclusiveEvents s.inFlight := by
  cases hl : s.live with
  | none =>
    rw [State.inFlight_off hl]
    exact exclusiveEvents_boot _ _
  | some v =>
    cases hc : s.coreStep with
    | next t =>
      rw [State.inFlight_powered hl hc]
      exact exclusiveEvents_coreStep hc
    | fault e => simpa only [State.inFlight, hl, hc] using exclusiveEvents_nil
    | refused e => simpa only [State.inFlight, hl, hc] using exclusiveEvents_nil

/-- A state whose enables are exclusive keeps this through exclusive events (R153). -/
theorem State.EnablesExclusive.of_continues {s t : State} (hs : s.EnablesExclusive) (hc : s.Continues t)
    {es : List Event} (htr : t.trace = s.trace ++ es) (hes : ExclusiveEvents es) : t.EnablesExclusive := by
  obtain ⟨hshow, hno, hone⟩ := hs
  have hshow' : t.TraceShowsLines := hc.traceShowsLines hshow
  obtain ⟨hone', hno'⟩ := hes (linesOfTrace s.trace) (hshow ▸ hno)
  refine ⟨hshow', ?_, ?_⟩
  · rwa [← hshow', htr, linesOfTrace_append]
  · rw [htr]
    exact OneEnableFrom.append hone hone'

/-- Settles O43: the events of every step are exclusive, a boot's and a cut step's among them. -/
theorem enablesExclusiveKept : Obligations.EnablesExclusiveKept := by
  intro s t hs h
  refine step_keeps (P := State.EnablesExclusive) ?inputs ?core ?receive ?boot ?loss ?cut hs h
  case inputs => exact fun _ _ hs => hs
  case core =>
    intro s t hs h
    obtain ⟨-, es, htr, -⟩ := State.continues_coreStep h
    exact hs.of_continues (State.continues_coreStep h) htr (newEvents_of_trace htr ▸ exclusiveEvents_coreStep h)
  case receive =>
    intro s v w hs hv _
    exact hs.of_continues (State.continues_of_live hv rfl rfl _ rfl rfl) rfl (exclusiveEvents_of_not_mem (by simp))
  case boot =>
    intro s hs hl
    exact hs.of_continues (State.continues_boot hl) (by rw [State.boot_eq]) (exclusiveEvents_boot _ _)
  case loss =>
    intro s v hs _
    exact hs.of_continues (s.continues_goOff _ _) (List.append_assoc ..) (exclusiveEvents_nil.cut 0)
  case cut =>
    intro s k draw hs
    exact hs.of_continues (s.continues_goOff _ _) (List.append_assoc ..) ((exclusiveEvents_inFlight s).cut k)

/-! ### The bits of a transfer -/

/-- The samples along one list of writes and then another. -/
theorem risingSamples_append (c : Lane) (p : Pins) (ws vs : List LineWrite) :
    risingSamples c p (ws ++ vs) = risingSamples c p ws ++ risingSamples c (p.writeAll ws) vs := by
  induction ws generalizing p with
  | nil => rfl
  | cons w ws ih => simp only [List.cons_append, risingSamples, ih, List.append_assoc, Pins.writeAll_cons]

/-- The four writes of a bit have one rising edge, with the bit on the data line. -/
theorem risingSamples_bitWrites {c : Lane} {p : Pins} (h : p.en.get c = .asserted) (b : Bool) :
    risingSamples c p (bitWrites b) = [bitWire b] := by
  simp [bitWrites, risingSamples, risingSample, Pins.write, h]

/-- So the bits at any positions are sampled in their order. -/
theorem risingSamples_bits {c : Lane} {p : Pins} (h : p.en.get c = .asserted) (v : Byte) (ks : List Nat) :
    risingSamples c p (ks.flatMap fun k => bitWrites (v.getLsbD k)) = ks.map fun k => bitWire (v.getLsbD k) := by
  induction ks generalizing p with
  | nil => rfl
  | cons k ks ih =>
    rw [List.flatMap_cons, risingSamples_append, risingSamples_bitWrites h, Pins.writeAll_bitWrites]
    exact congrArg (List.cons _) (ih h)

/-- The enable is written around the bits, and its writes are no edges of the clock. -/
theorem risingSamples_transfer (c : Lane) (p : Pins) (v : Byte) :
    risingSamples c p (transferWrites c v) = bitsMsbFirst v := by
  have henabled : (p.write (.en c .asserted)).en.get c = .asserted := Triple.get_set_self ..
  rw [transferWrites, risingSamples, risingSamples_append, risingSamples_bits henabled]
  exact List.append_nil _

/-- Settles O52: bit by bit, the samples; and what a transfer leaves on the lines. -/
theorem transferShowsTheBits : Obligations.TransferShowsTheBits := by
  intro p c v
  refine ⟨risingSamples_transfer c p v, ⟨_, rfl, ?_⟩, ?_, ?_⟩
  · simp [bitWrites]
  · rw [Pins.writeAll_transfer]
  · rw [Pins.writeAll_transfer]
    rfl

/-- Settles O17: the closed form of `Drive`, with the 34 line writes written out. -/
theorem driveShiftsTheByte : Obligations.DriveShiftsTheByte := by
  intro r c v
  rw [Running.drive_eq]
  simp only [List.append_assoc]
  rfl

end Sys2Proof.Machine
end

section
/-! SUPPORT. The proofs of the statements about the settings store (`44_nvram.md`). -/

namespace Sys2Proof.Machine

/-! ### A torn COMMIT -/

/-- The events that a power loss inside a COMMIT step cuts (R170, R232). -/
theorem State.inFlight_commit {s : State} {v : Volatile} {w : Word} {a : BitVec 7} {x : BitVec 5}
    (hv : s.live = some v) (ha : v.activity = .exec w) (hcmd : s.commandFor v w = .commit a x) :
    s.inFlight = commitEvents v.att ++ [.arm] := by
  have hcore := State.coreStep_exec hv ha
  rw [hcmd, exec_commit_of_live hv] at hcore
  rw [State.inFlight_powered hv hcore, newEvents_of_trace rfl]

/-- Power lost inside a COMMIT step: a prefix of its events, and the draw in the record (R174, R232). -/
theorem State.powerLossIn_commit {s : State} {v : Volatile} {w : Word} {a : BitVec 7} {x : BitVec 5}
    (hv : s.live = some v) (ha : v.activity = .exec w) (hcmd : s.commandFor v w = .commit a x) (k : Nat)
    (draw : Triple Byte) :
    s.powerLossIn k draw =
      s.goOff ((commitEvents v.att ++ [Event.arm]).take k) (Memory.writeAll s.params.nvInit s.nv draw) := by
  have hc : s.committing = true := State.committing_iff.2 ⟨v, w, hv, ha, isCommit_iff.2 ⟨a, x, hcmd⟩⟩
  rw [State.powerLossIn, State.inFlight_commit hv ha hcmd, if_pos hc]

/-- Power-on loads the record as it is (R172, R231). -/
theorem State.powerOn_att {s : State} (h : s.live = none) : ∃ u, s.powerOn.live = some u ∧ u.att = s.nvRecord := by
  rw [State.powerOn_off h, State.boot_eq]
  exact ⟨_, rfl, rfl⟩

/-- Settles O35: the step is cut with the draw written over the record, and the boot loads the record. -/
theorem powerLossInCommitDrawsTheRecord : Obligations.PowerLossInCommitDrawsTheRecord := by
  intro s v w a x k draw rest hm hv ha hcmd hi
  have hdraw : ∀ c, Memory.read s.params.nvInit (Memory.writeAll s.params.nvInit s.nv draw) c = draw.get c :=
    fun c => Memory.read_writeAll _ _ draw c hm
  refine ⟨Memory.writeAll s.params.nvInit s.nv draw, ?step, hdraw, ?boot⟩
  case step =>
    rw [step_of_cons hi, State.react, State.powerLossIn_commit (s := { s with inputs := rest }) hv ha hcmd]
    rfl
  case boot =>
    obtain ⟨u, hu, hatt⟩ :=
      State.powerOn_att (s := { s with nv := Memory.writeAll s.params.nvInit s.nv draw, live := none }) rfl
    exact ⟨u, hu, hatt.trans (Triple.ext_get fun c => (State.nvRecord_get _ c).trans (hdraw c))⟩

/-! ### SET, COMMIT, RESET -/

/-- The value a SET stores is that of its 5-bit field (R73). -/
theorem settingOperand_toNat (d : BitVec 5) : (settingOperand d).toNat = d.toNat :=
  BitVec.toNat_setWidth_of_le (by decide)

/-- Settles O54: the COMMIT leaves the settings that the SET made in the record, and the RESET loads them from there. -/
theorem setCommitResetRoundTrip : Obligations.SetCommitResetRoundTrip := by
  intro s v c a a' d x hm hv
  have hset := exec_setCommand_of_live hv c a d
  obtain ⟨t2, v2, hcommit, hv2, hrec⟩ := exec_commit_record (memoryCanonical_exec hm hset) rfl a' x
  refine ⟨_, t2, _, _, hset, hcommit, exec_reset_of_live hv2, rfl, rfl, ?same, fun e he => ?other⟩ <;> rw [hrec]
  case same => rw [Triple.get_set_self, settingOperand_toNat]
  case other => exact Triple.get_set_of_ne _ _ he.symm

end Sys2Proof.Machine
end

section
/-! SUPPORT. The proofs of the statements about the receiver step, the core's steps and the fleet (`60_exceptions.md`). -/

namespace Sys2Proof.Machine

/-! ### The receiver step and the fetch step -/

/-- The receiver step leaves exactly those devices as they are that are not powered and ARMED (R202, R205). -/
theorem State.receive_eq_self_iff (s : State) (w : Word) :
    s.receive w = s ↔ ¬ ∃ v, s.live = some v ∧ v.rx = .armed := by
  refine ⟨?_, fun hidle => ?_⟩
  · rintro hself ⟨v, hv, hrx⟩
    rw [State.receive_armed hv hrx] at hself
    simpa using congrArg State.trace hself
  · rcases State.receive_cases s w with hself | ⟨v, hv, hrx, -⟩
    · exact hself
    · exact absurd ⟨v, hv, hrx⟩ hidle

/-- A word is delivered to exactly the devices that are powered and ARMED (R205). -/
theorem State.receive_delivers_iff (s : State) (w : Word) :
    (s.receive w).trace = s.trace ++ [.deliver w] ↔ ∃ v, s.live = some v ∧ v.rx = .armed := by
  refine ⟨fun htrace => ?_, fun ⟨v, hv, hrx⟩ => congrArg State.trace (State.receive_armed hv hrx w)⟩
  by_contra hidle
  rw [(s.receive_eq_self_iff w).2 hidle] at htrace
  simp at htrace

/-- Settles O26: the choice of a word is the receiver step, which an ARMED device takes. -/
theorem receiverCapturesTheWord : Obligations.ReceiverCapturesTheWord :=
  fun _ _ _ _ => step_word_armed

/-- Settles O27: the receiver step leaves a device that is not powered and ARMED as it is. -/
theorem wordToHeldOrOffDeviceIsLost : Obligations.WordToHeldOrOffDeviceIsLost := by
  intro s w rest hlost hi
  have hidle : ¬ ∃ v, s.live = some v ∧ v.rx = .armed := by
    rintro ⟨v, hv, hrx⟩
    rcases hlost with hoff | ⟨u, hu, hheld⟩
    · simp [hoff] at hv
    · cases hv.symm.trans hu
      simp [hheld] at hrx
  rw [step_of_cons hi]
  exact congrArg Host.Outcome.next ((State.receive_eq_self_iff { s with inputs := rest } w).2 hidle)

/-- Settles O28: the core's step of a sleeping device with the flag set is the fetch, which takes the word of the mailbox. -/
theorem fetchTakesTheMailbox : Obligations.FetchTakesTheMailbox := by
  intro s v w rest hv ha hready hmbox hmoves
  rw [step_of_coreMoves hmoves, State.coreStep_sleep (s := { s with inputs := rest }) hv ha, if_pos hready]
  exact State.fetch_next.2 ⟨w, hmbox, rfl⟩

/-! ### One enabled step at a time -/

/-- The fetch step emits an event, or faults (R203). -/
theorem State.fetch_ne_next_self (s : State) (v : Volatile) : s.fetch v ≠ .next s := by
  intro h
  obtain ⟨w, -, hself⟩ := State.fetch_next.1 h
  simpa using congrArg State.trace hself

/-- A command ends in SLEEP or BACKOFF, so it leaves EXEC(w) (R100, R102). -/
theorem exec_ne_next_self {s : State} {v : Volatile} {w : Word} (hv : s.live = some v) (ha : v.activity = .exec w)
    (i : Instr) : exec i s ≠ .next s := by
  intro h
  obtain ⟨_, u, -, hu, -, -, hend⟩ := exec_sequencer h
  cases hv.symm.trans hu
  rcases hend with ⟨-, hsleep⟩ | ⟨-, hbackoff⟩
  · cases ha.symm.trans hsleep
  · cases ha.symm.trans hbackoff

/-- The backoff end emits events (R106). -/
theorem State.backoffEnd_ne_self (s : State) (v : Volatile) : s.backoffEnd v ≠ s := by
  intro hself
  rw [State.backoffEnd_eq] at hself
  simpa using congrArg State.trace hself

/-- Where a powered core has a step: the enabling conditions of the fetch, the command step and the backoff end (R206). -/
theorem State.coreStep_enabled_iff {s : State} {v : Volatile} (hv : s.live = some v) :
    s.coreStep ≠ .next s ↔
      (v.activity = .sleep ∧ v.ready = true) ∨ (∃ w, v.activity = .exec w) ∨ v.activity = .backoff := by
  cases ha : v.activity with
  | sleep =>
    rw [State.coreStep_sleep hv ha]
    cases hready : v.ready with
    | false => simp
    | true => simpa using s.fetch_ne_next_self v
  | exec w =>
    rw [State.coreStep_exec hv ha]
    simpa using exec_ne_next_self hv ha (s.commandFor v w)
  | backoff =>
    rw [State.coreStep_backoff hv ha]
    simpa using s.backoffEnd_ne_self v

/-- Settles O49: an ARMED receiver belongs to a sleeping core with the flag clear (R34), and such a core has no step. -/
theorem atMostOneStepEnabled : Obligations.AtMostOneStepEnabled := by
  intro s v hs hv
  obtain ⟨-, -, harmed⟩ := hs v hv
  have coreIdle (hrx : v.rx = .armed) : s.coreStep = .next s := by
    obtain ⟨hready, hsleep⟩ := harmed hrx
    rw [State.coreStep_sleep hv hsleep, hready]
    rfl
  refine ⟨fun w => ?receiver, coreIdle, State.coreStep_enabled_iff hv,
    fun hcore => State.receive_held hv fun hrx => hcore (coreIdle hrx), fun ha hready => ?fetch,
    fun w => State.coreStep_exec hv, State.coreStep_backoff hv⟩
  case receiver =>
    rw [Ne, State.receive_eq_self_iff, not_not]
    refine ⟨?_, fun ⟨_, hrx, _⟩ => ⟨v, hv, hrx⟩⟩
    rintro ⟨u, hu, hrx⟩
    cases hv.symm.trans hu
    obtain ⟨hready, hsleep⟩ := harmed hrx
    exact ⟨hsleep, hrx, hready⟩
  case fetch => rw [State.coreStep_sleep hv ha, if_pos hready]

/-! ### The fleet -/

/-- A step of a fleet is the step of one device in its place, or nothing where there is no such device (R214). -/
theorem fleetStep_cases {fleet fleet' : List State} {n : Nat} (h : fleetStep fleet n = .next fleet') :
    fleet' = fleet ∨ ∃ s t, fleet[n]? = some s ∧ step s = .next t ∧ fleet' = fleet.set n t := by
  unfold fleetStep at h
  split at h
  · cases h
    exact .inl rfl
  · next s hs =>
    split at h
    · next t ht =>
      cases h
      exact .inr ⟨s, t, hs, ht, rfl⟩
    · cases h
    · cases h

/-- Each device of a fleet hears a word by its own receiver (R214). -/
theorem fleetHears_getElem? {fleet : List State} {m : Nat} {s : State} (hs : fleet[m]? = some s) (w : Word) :
    (fleetHears w fleet)[m]? = some (s.receive w) := by
  rw [fleetHears, List.getElem?_map, hs, Option.map_some]

/-- Settles O59: a step writes its own place of the list, and what a word does to a device is its own receiver step. -/
theorem fleetDevicesAreIndependent : Obligations.FleetDevicesAreIndependent := by
  intro fleet fleet' n m w
  refine ⟨fun hstep hm => ?step, fun s hs => ?word⟩
  case step =>
    rcases fleetStep_cases hstep with rfl | ⟨s, t, -, -, rfl⟩
    · rfl
    · exact List.getElem?_set_ne hm.symm
  case word =>
    rw [fleetHears_getElem? hs]
    refine ⟨?reached, fun hidle => congrArg some ((s.receive_eq_self_iff w).2 hidle)⟩
    rw [← s.receive_delivers_iff w]
    simp

end Sys2Proof.Machine
end

section
/-! SUPPORT. The proofs of the statements about power-on, power loss and RESET (`70_reset_and_hazards.md`). -/

namespace Sys2Proof.Machine

/-! ### Power-on -/

/-- The events of the three transfers of a boot or a RESET, channel by channel (R103, R231). -/
theorem driveAllEvents_eq (a : Triple Byte) :
    driveAllEvents a = lineEvents (transferWrites .l0 a.l0) ++ lineEvents (transferWrites .l1 a.l1) ++
      lineEvents (transferWrites .l2 a.l2) := by
  simp [driveAllEvents, Lane.all, Triple.get]

/-- Settles O32: in OFF the power-on is the boot, whose events are those of its parts. -/
theorem powerOnBoots : Obligations.PowerOnBoots := by
  intro s rest hoff hi
  rw [step_of_cons hi, State.react, State.powerOn_off (s := { s with inputs := rest }) hoff, State.boot_eq, bootEvents,
    driveAllEvents_eq]
  simp only [List.append_assoc]
  rfl

/-- Settles O37: the device before its first power-on is in OFF, and reset is its boot. -/
theorem resetIsTheFirstBoot : Obligations.ResetIsTheFirstBoot :=
  State.reset_eq_boot.trans (State.powerOn_off rfl).symm

/-! ### Power loss -/

/-- Power lost where no COMMIT is in execution: a prefix of the events of the enabled step, and the record as it was (R232). -/
theorem State.powerLossIn_of_not_committing {s : State} (h : s.committing = false) (k : Nat) (draw : Triple Byte) :
    s.powerLossIn k draw = s.goOff (s.inFlight.take k) s.nv := by
  rw [State.powerLossIn, h, if_neg Bool.false_ne_true]

theorem State.committing_off {s : State} (h : s.live = none) : s.committing = false := by
  simp only [State.committing, h]

/-- A powered device is in no COMMIT step if its word, where it executes one, is decoded as another command (R174). -/
theorem State.committing_eq_false {s : State} {v : Volatile} (hv : s.live = some v)
    (h : ∀ w a x, v.activity = .exec w → s.commandFor v w ≠ .commit a x) : s.committing = false := by
  refine Bool.eq_false_iff.2 fun hc => ?_
  obtain ⟨u, w, hu, ha, hcommit⟩ := State.committing_iff.1 hc
  cases hv.symm.trans hu
  obtain ⟨a, x, hcmd⟩ := isCommit_iff.1 hcommit
  exact h w a x ha hcmd

/-- Settles O33: between two steps nothing is in flight, and in OFF the boot is. -/
theorem powerLossOutsideCoreSteps : Obligations.PowerLossOutsideCoreSteps := by
  refine fun s rest => ⟨fun v hv hi => ?between, fun k draw hoff hi => ?inPowerOn⟩ <;> rw [step_of_cons hi, State.react]
  case between =>
    rw [State.powerLoss_powered (s := { s with inputs := rest }) hv, State.goOff, List.append_nil]
  case inPowerOn =>
    have off : State.live { s with inputs := rest } = none := hoff
    rw [State.powerLossIn_of_not_committing (State.committing_off off), State.inFlight_off off, State.goOff, ← hoff]
    rfl

/-- Settles O34: the events in flight are those of the core's step, and only a COMMIT writes the draw. -/
theorem powerLossCutsACoreStep : Obligations.PowerLossCutsACoreStep := by
  intro s t v k draw rest hv hi hcmd hcore
  have live : State.live { s with inputs := rest } = some v := hv
  rw [step_of_cons hi, State.react, State.powerLossIn_of_not_committing (State.committing_eq_false live hcmd),
    State.inFlight_powered live hcore]
  rfl

/-! ### RESET and power-on -/

/-- Settles O58: both restore the lines and load and drive the same record; the closed form of RESET
writes neither the flag nor the mailbox. -/
theorem resetAndPowerOnAgree : Obligations.ResetAndPowerOnAgree := by
  intro s s' v hv hoff hparams hnv
  have hrec : s'.nvRecord = s.nvRecord := by simp only [State.nvRecord, hparams, hnv]
  rw [State.powerOn_off hoff, State.boot_eq, hparams, hrec]
  exact ⟨_, _, _, exec_reset_of_live hv, rfl, rfl, rfl, rfl, rfl, rfl, rfl, rfl, rfl, rfl⟩

end Sys2Proof.Machine
end
